-- ==== Sys2Proof/Word.lean ====
section
/-! DEFINITION. The word types of 00_scope R11, and the tuple of at most three components that a primitive
works on (10_state R44). -/

namespace Sys2Proof

/-- One byte of data memory, of the key, of an IV or of a keystream. -/
abbrev Byte := BitVec 8

/-- A u32: a register of the window, a lane in the u32 view, a command word (R11, R20). -/
abbrev Word := BitVec 32

/-- A u64: the stream position and the block index (R34, R35). -/
abbrev DWord := BitVec 64

/-- The 64-bit pattern of an IEEE 754 binary64 value (R11, R42). -/
abbrev F64 := BitVec 64

/-- The components (x, y, z) of one lane's state. A primitive of dimensionality D uses the first D of them
(10_state R44); its transition hands the others on unchanged. -/
structure Tri (α : Type) where
  x : α
  y : α
  z : α
deriving DecidableEq, Repr

end Sys2Proof
end

