-- ==== Sys2Proof/Config.lean ====
section
/-! DEFINITION. What an implementation fixes (00_scope R5, R9; 20_memory R60), the free values the spec leaves
open, and the small closed sets of names of the encoding (30_encoding R83, R86; 40_primitives R100). -/

namespace Sys2Proof

/-- The three tiers of R100. -/
inductive Tier where
  | scalar
  | w256
  | w512
deriving DecidableEq, Repr

/-- The TIER field of a command word (R83): a tier pinned by software, or AUTO. -/
inductive TierReq where
  | auto
  | scalar
  | w256
  | w512
deriving DecidableEq, Repr

/-- The integer primitives, PRIM 0 .. 5 (R86). -/
inductive IntPrim where
  | itent
  | ilog
  | isine
  | ihenon
  | ilorenz
  | ichen
deriving DecidableEq, Repr

/-- The float primitives, PRIM 8 .. 13 (R86). -/
inductive FloatPrim where
  | flog
  | ftent
  | fsine
  | fhenon
  | florenz
  | fchen
deriving DecidableEq, Repr

/-- The OPEN parameters of the block that are plain data (R5, R9, R60; 92_eei_decisions, open parameters).
MemAdmits is held as the list of the admitted address ranges, both ends included: every predicate on the 2^32
addresses is such a list. SIN_PI, a function, is `Config.sinPi`. -/
structure Params where
  /-- HAS_W256 (R5). -/
  hasW256 : Bool
  /-- HAS_W512 (R5). -/
  hasW512 : Bool
  /-- MemAdmits (R60): the ranges, first and last address, that the platform admits. -/
  admitted : List (Nat × Nat)
  /-- SINE_R (R9). -/
  sineR : F64
  /-- HENON_A (R9). -/
  henonA : F64
  /-- HENON_B (R9). -/
  henonB : F64
  /-- CHEN_A (R9). -/
  chenA : F64
  /-- CHEN_B (R9). -/
  chenB : F64
  /-- CHEN_C (R9). -/
  chenC : F64
  /-- CHEN_DT (R9). -/
  chenDt : F64
deriving DecidableEq, Repr

/-- HAS_W256 of the part (R5), OPEN. -/
opaque Config.hasW256 : Bool
/-- HAS_W512 of the part (R5), OPEN. -/
opaque Config.hasW512 : Bool
/-- The address ranges the platform admits (R60), OPEN. -/
opaque Config.admitted : List (Nat × Nat)
/-- SINE_R (R9), OPEN. -/
opaque Config.sineR : F64
/-- HENON_A (R9), OPEN. -/
opaque Config.henonA : F64
/-- HENON_B (R9), OPEN. -/
opaque Config.henonB : F64
/-- CHEN_A (R9), OPEN. -/
opaque Config.chenA : F64
/-- CHEN_B (R9), OPEN. -/
opaque Config.chenB : F64
/-- CHEN_C (R9), OPEN. -/
opaque Config.chenC : F64
/-- CHEN_DT (R9), OPEN. -/
opaque Config.chenDt : F64

/-- The parameters of the part this machine is: every one open (DESIGN CHOICE, log 3: they reach the step through
State's field `params`, so that a statement over all states is a statement over all parts). -/
def Config.params : Params where
  hasW256 := Config.hasW256
  hasW512 := Config.hasW512
  admitted := Config.admitted
  sineR := Config.sineR
  henonA := Config.henonA
  henonB := Config.henonB
  chenA := Config.chenA
  chenB := Config.chenB
  chenC := Config.chenC
  chenDt := Config.chenDt

/-- SIN_PI (R9, R114): the implementation's binary64 value of sin(π·x), a total function, OPEN (log 10). -/
opaque Config.sinPi : F64 → F64

/-- FREE VALUE: sign (bit 51) and payload (bits 50:0) of the quiet NaN that a float operation returns (R111), by the
command that executes it (State's `freeIdx`), the transition of that command, the lane, and the operation within
the transition (log 9). -/
opaque Config.freeNaN : Nat → Nat → Nat → Nat → BitVec 52

/-- FREE VALUE: what a register that a command can write reads as while BUSY = 1 (R291), by State's `freeIdx`
(log 11). -/
opaque Config.freeWord : Nat → Word

/-- FREE VALUE: a raced or abandoned byte of data memory (R72, R281), by State's `freeIdx` and the address
(log 12, log 13). -/
opaque Config.freeByte : Nat → Nat → Byte

end Sys2Proof
end

