-- ==== Sys2Proof/Syntax.lean ====
section
/-! DEFINITION. The commands of the block: one constructor for each row of spec/opcode_table.json, in the table's
order. The TIER field is the operand of every command that takes a tier (30_encoding R83, R85). -/

namespace Sys2Proof

/-- A decoded command (30_encoding R88); each constructor cites the rule that gives its meaning. -/
inductive Instr where
  /-- NOP (R140) -/
  | nop
  /-- MIX (R163) -/
  | mix
  /-- KSGEN.ITENT (R165) -/
  | ksgenItent (t : TierReq)
  /-- KSGEN.ILOG (R166) -/
  | ksgenIlog (t : TierReq)
  /-- KSGEN.ISINE (R167) -/
  | ksgenIsine (t : TierReq)
  /-- KSGEN.IHENON (R168) -/
  | ksgenIhenon (t : TierReq)
  /-- KSGEN.ILORENZ (R169) -/
  | ksgenIlorenz (t : TierReq)
  /-- KSGEN.ICHEN (R170) -/
  | ksgenIchen (t : TierReq)
  /-- STEP.ITENT (R142) -/
  | stepItent (t : TierReq)
  /-- STEP.ILOG (R143) -/
  | stepIlog (t : TierReq)
  /-- STEP.ISINE (R144) -/
  | stepIsine (t : TierReq)
  /-- STEP.IHENON (R145) -/
  | stepIhenon (t : TierReq)
  /-- STEP.ILORENZ (R146) -/
  | stepIlorenz (t : TierReq)
  /-- STEP.ICHEN (R147) -/
  | stepIchen (t : TierReq)
  /-- STEP.FLOG (R148) -/
  | stepFlog (t : TierReq)
  /-- STEP.FTENT (R149) -/
  | stepFtent (t : TierReq)
  /-- STEP.FSINE (R150) -/
  | stepFsine (t : TierReq)
  /-- STEP.FHENON (R151) -/
  | stepFhenon (t : TierReq)
  /-- STEP.FLORENZ (R152) -/
  | stepFlorenz (t : TierReq)
  /-- STEP.FCHEN (R153) -/
  | stepFchen (t : TierReq)
  /-- DERIVE.ITENT (R194) -/
  | deriveItent (t : TierReq)
  /-- DERIVE.ILOG (R195) -/
  | deriveIlog (t : TierReq)
  /-- DERIVE.ISINE (R196) -/
  | deriveIsine (t : TierReq)
  /-- DERIVE.IHENON (R197) -/
  | deriveIhenon (t : TierReq)
  /-- DERIVE.ILORENZ (R198) -/
  | deriveIlorenz (t : TierReq)
  /-- DERIVE.ICHEN (R199) -/
  | deriveIchen (t : TierReq)
  /-- PROCESS.ITENT (R201) -/
  | processItent (t : TierReq)
  /-- PROCESS.ILOG (R202) -/
  | processIlog (t : TierReq)
  /-- PROCESS.ISINE (R203) -/
  | processIsine (t : TierReq)
  /-- PROCESS.IHENON (R204) -/
  | processIhenon (t : TierReq)
  /-- PROCESS.ILORENZ (R205) -/
  | processIlorenz (t : TierReq)
  /-- PROCESS.ICHEN (R206) -/
  | processIchen (t : TierReq)
  /-- IVDER (R234) -/
  | ivder
  /-- SAPPLY.ITENT (R228) -/
  | sapplyItent (t : TierReq)
  /-- SAPPLY.ILOG (R229) -/
  | sapplyIlog (t : TierReq)
  /-- SAPPLY.ISINE (R230) -/
  | sapplyIsine (t : TierReq)
  /-- SAPPLY.IHENON (R231) -/
  | sapplyIhenon (t : TierReq)
  /-- SAPPLY.ILORENZ (R232) -/
  | sapplyIlorenz (t : TierReq)
  /-- SAPPLY.ICHEN (R233) -/
  | sapplyIchen (t : TierReq)
  /-- SINVAL (R235) -/
  | sinval
deriving DecidableEq, Repr

end Sys2Proof
end

