-- ==== Sys2Proof/WellFormed.lean ====
section
/-! DEFINITION. Which terms stand for something the block gives a meaning to: commands and accesses to the register
window. -/

namespace Sys2Proof

/-- Every term of `Instr` is a command: its only field is a `TierReq`, and every TIER value is legal in the encoding
of a command that takes a tier (30_encoding R88). A command without a tier has no field that could be wrong. -/
def Instr.wellFormed (_ : Instr) : Bool := true

/-- An access of `width` bytes at offset `off` of the window has a meaning only when it is 32 bits wide and aligned
(10_state R20, R21). -/
def accessWellFormed (off : BitVec 12) (width : Nat) : Bool :=
  width == 4 && off.toNat % 4 == 0

end Sys2Proof
end

