-- ==== Sys2Proof/Decode.lean ====
section
/-! DEFINITION. The decoder of 30_encoding R88, total on 32-bit words and rejecting by name, and the encoder of
30_encoding R80, R85, R86. -/

namespace Sys2Proof

/-- Why a command word is ILLEGAL (30_encoding R89). The engine treats all alike: ERR = ILLEGAL_CMD. -/
inductive Illegal where
  /-- RSV, bits 31:14, is not 0 (R84) -/
  | reservedBitSet
  /-- OP is one of 0x09 .. 0xFF (R85) -/
  | reservedOp
  /-- NOP, MIX, IVDER or SINVAL with PRIM not 0 (R82) -/
  | primNotZero
  /-- NOP, MIX, IVDER or SINVAL with TIER not 0 (R83) -/
  | tierNotZero
  /-- KSGEN, DERIVE, PROCESS or SAPPLY with PRIM in 6 .. 15 (R87) -/
  | notAnIntegerPrim
  /-- STEP with PRIM in 6, 7, 14, 15 (R86) -/
  | reservedPrim
deriving DecidableEq, Repr

/-- OP, bits 7:0 (R81). -/
def opField (w : Word) : BitVec 8 := w.extractLsb' 0 8
/-- PRIM, bits 11:8 (R82). -/
def primField (w : Word) : BitVec 4 := w.extractLsb' 8 4
/-- TIER, bits 13:12 (R83). -/
def tierField (w : Word) : BitVec 2 := w.extractLsb' 12 2
/-- RSV, bits 31:14 (R84). -/
def rsvField (w : Word) : BitVec 18 := w.extractLsb' 14 18

/-- The TIER codes of R83. -/
def TierReq.ofField (t : BitVec 2) : TierReq :=
  match t.toNat with
  | 0 => .auto
  | 1 => .scalar
  | 2 => .w256
  | _ => .w512

/-- The TIER codes of R83, written. -/
def TierReq.toField : TierReq → BitVec 2
  | .auto => 0
  | .scalar => 1
  | .w256 => 2
  | .w512 => 3

/-- PRIM 0 .. 5 of R86; none for every other code. -/
def IntPrim.ofField (p : BitVec 4) : Option IntPrim :=
  match p.toNat with
  | 0 => some .itent
  | 1 => some .ilog
  | 2 => some .isine
  | 3 => some .ihenon
  | 4 => some .ilorenz
  | 5 => some .ichen
  | _ => none

/-- The PRIM codes of R86. -/
def IntPrim.toField : IntPrim → BitVec 4
  | .itent => 0
  | .ilog => 1
  | .isine => 2
  | .ihenon => 3
  | .ilorenz => 4
  | .ichen => 5

/-- PRIM 8 .. 13 of R86; none for every other code. -/
def FloatPrim.ofField (p : BitVec 4) : Option FloatPrim :=
  match p.toNat with
  | 8 => some .flog
  | 9 => some .ftent
  | 10 => some .fsine
  | 11 => some .fhenon
  | 12 => some .florenz
  | 13 => some .fchen
  | _ => none

/-- KSGEN.P with its tier. -/
def ksgenOf (t : TierReq) : IntPrim → Instr
  | .itent => .ksgenItent t
  | .ilog => .ksgenIlog t
  | .isine => .ksgenIsine t
  | .ihenon => .ksgenIhenon t
  | .ilorenz => .ksgenIlorenz t
  | .ichen => .ksgenIchen t

/-- STEP.P for an integer P with its tier. -/
def stepIntOf (t : TierReq) : IntPrim → Instr
  | .itent => .stepItent t
  | .ilog => .stepIlog t
  | .isine => .stepIsine t
  | .ihenon => .stepIhenon t
  | .ilorenz => .stepIlorenz t
  | .ichen => .stepIchen t

/-- DERIVE.P with its tier. -/
def deriveOf (t : TierReq) : IntPrim → Instr
  | .itent => .deriveItent t
  | .ilog => .deriveIlog t
  | .isine => .deriveIsine t
  | .ihenon => .deriveIhenon t
  | .ilorenz => .deriveIlorenz t
  | .ichen => .deriveIchen t

/-- PROCESS.P with its tier. -/
def processOf (t : TierReq) : IntPrim → Instr
  | .itent => .processItent t
  | .ilog => .processIlog t
  | .isine => .processIsine t
  | .ihenon => .processIhenon t
  | .ilorenz => .processIlorenz t
  | .ichen => .processIchen t

/-- SAPPLY.P with its tier. -/
def sapplyOf (t : TierReq) : IntPrim → Instr
  | .itent => .sapplyItent t
  | .ilog => .sapplyIlog t
  | .isine => .sapplyIsine t
  | .ihenon => .sapplyIhenon t
  | .ilorenz => .sapplyIlorenz t
  | .ichen => .sapplyIchen t

/-- STEP.P for a float P, with its tier. -/
def stepFloatOf (t : TierReq) : FloatPrim → Instr
  | .flog => .stepFlog t
  | .ftent => .stepFtent t
  | .fsine => .stepFsine t
  | .fhenon => .stepFhenon t
  | .florenz => .stepFlorenz t
  | .fchen => .stepFchen t

/-- A command that takes neither primitive nor tier: both fields must be 0 (R82, R83, R88). -/
def decodePlain (p : BitVec 4) (t : BitVec 2) (i : Instr) : Except Illegal Instr :=
  if p ≠ 0 then .error .primNotZero
  else if t ≠ 0 then .error .tierNotZero
  else .ok i

/-- A command that takes an integer primitive only (R87, R88). -/
def decodeInt (p : BitVec 4) (mk : IntPrim → Instr) : Except Illegal Instr :=
  match IntPrim.ofField p with
  | some q => .ok (mk q)
  | none => .error .notAnIntegerPrim

/-- STEP takes an integer or a float primitive (R88). -/
def decodeStep (p : BitVec 4) (t : TierReq) : Except Illegal Instr :=
  match IntPrim.ofField p with
  | some q => .ok (stepIntOf t q)
  | none =>
    match FloatPrim.ofField p with
    | some q => .ok (stepFloatOf t q)
    | none => .error .reservedPrim

/-- decode of R88. -/
def decode (w : Word) : Except Illegal Instr :=
  let p := primField w
  let t := TierReq.ofField (tierField w)
  if rsvField w ≠ 0 then .error .reservedBitSet
  else
    match (opField w).toNat with
    | 0x00 => decodePlain p (tierField w) .nop
    | 0x01 => decodePlain p (tierField w) .mix
    | 0x02 => decodeInt p (ksgenOf t)
    | 0x03 => decodeStep p t
    | 0x04 => decodeInt p (deriveOf t)
    | 0x05 => decodeInt p (processOf t)
    | 0x06 => decodePlain p (tierField w) .ivder
    | 0x07 => decodeInt p (sapplyOf t)
    | 0x08 => decodePlain p (tierField w) .sinval
    | _ => .error .reservedOp

/-- The one format of R80: RSV = 0, TIER, PRIM, OP from bit 31 down. -/
def commandWord (op : BitVec 8) (prim : BitVec 4) (t : TierReq) : Word :=
  0#18 ++ t.toField ++ prim ++ op

/-- The command word of a command (R80, R85, R86); a command without a tier has TIER = 0 (R83). -/
def encode : Instr → Word
  | .nop => commandWord 0 0 .auto
  | .mix => commandWord 1 0 .auto
  | .ksgenItent t => commandWord 2 0 t
  | .ksgenIlog t => commandWord 2 1 t
  | .ksgenIsine t => commandWord 2 2 t
  | .ksgenIhenon t => commandWord 2 3 t
  | .ksgenIlorenz t => commandWord 2 4 t
  | .ksgenIchen t => commandWord 2 5 t
  | .stepItent t => commandWord 3 0 t
  | .stepIlog t => commandWord 3 1 t
  | .stepIsine t => commandWord 3 2 t
  | .stepIhenon t => commandWord 3 3 t
  | .stepIlorenz t => commandWord 3 4 t
  | .stepIchen t => commandWord 3 5 t
  | .stepFlog t => commandWord 3 8 t
  | .stepFtent t => commandWord 3 9 t
  | .stepFsine t => commandWord 3 10 t
  | .stepFhenon t => commandWord 3 11 t
  | .stepFlorenz t => commandWord 3 12 t
  | .stepFchen t => commandWord 3 13 t
  | .deriveItent t => commandWord 4 0 t
  | .deriveIlog t => commandWord 4 1 t
  | .deriveIsine t => commandWord 4 2 t
  | .deriveIhenon t => commandWord 4 3 t
  | .deriveIlorenz t => commandWord 4 4 t
  | .deriveIchen t => commandWord 4 5 t
  | .processItent t => commandWord 5 0 t
  | .processIlog t => commandWord 5 1 t
  | .processIsine t => commandWord 5 2 t
  | .processIhenon t => commandWord 5 3 t
  | .processIlorenz t => commandWord 5 4 t
  | .processIchen t => commandWord 5 5 t
  | .ivder => commandWord 6 0 .auto
  | .sapplyItent t => commandWord 7 0 t
  | .sapplyIlog t => commandWord 7 1 t
  | .sapplyIsine t => commandWord 7 2 t
  | .sapplyIhenon t => commandWord 7 3 t
  | .sapplyIlorenz t => commandWord 7 4 t
  | .sapplyIchen t => commandWord 7 5 t
  | .sinval => commandWord 8 0 .auto

/-- The instruction that the decoder reads from a row's `nbits` bits `w` of spec/opcode_table.json; the bits of the
32-bit command word above `nbits` are 0. A command word has one word and no byte order of its own: the host writes
it to CMD as a 32-bit value (R80, 10_state R26). -/
def decodeTableWord (nbits w : Nat) : Option Instr :=
  (decode (BitVec.ofNat 32 (w % 2 ^ nbits))).toOption

end Sys2Proof
end

