-- ==== Sys2Proof/Machine/State.lean ====
section
/-! DEFINITION. The state of the block as plain data (10_state, 70_reset R280), the events by which the outside world
and the engine move it, and why a step can stop. -/

namespace Sys2Proof.Machine

/-- No step of the block stops with a fault, so this type has no constructor: an error is a code in STATUS.ERR and
the machine goes on (60_exceptions R253, R256, R257). Safe: nothing can be hidden behind a fault (log 14). -/
inductive Fault where
deriving DecidableEq, Repr

/-- Why a step has no next state. -/
inductive Refusal where
  /-- raised by an arm of exec whose command has no meaning yet (no arm is left so); safe -/
  | notModelled (mnemonic : String)
  /-- raised by a register access that is not an aligned 32-bit access: it "has no meaning in this spec: a model
  refuses it" (10_state R21); safe -/
  | notAlignedWordAccess
deriving DecidableEq, Repr

/-- The error codes that have a name (60_exceptions R250). Codes 7 .. 15 have none and are never produced. -/
inductive ErrCode where
  /-- 0: no error -/
  | ok
  /-- 1: the CMD word decodes to ILLEGAL -/
  | illegalCmd
  /-- 2: KEYLEN < 32 -/
  | invalidKey
  /-- 3: tier, IVLEN, buffer range or stream range -/
  | invalidArgument
  /-- 4: a buffer byte with MemAdmits false -/
  | accessFault
  /-- 5: reserved, never raised -/
  | shapeMismatch
  /-- 6: reserved, never raised -/
  | invalidRange
deriving DecidableEq, Repr

/-- The registers of the window, by the names of 10_state R20; `reserved` is every offset the table does not name. -/
inductive Reg where
  | id
  | cap
  | ctrl
  | status
  | cmd
  | addr
  | len
  | cnt
  | keylen
  | ivlen
  | din
  | dout
  | sposLo
  | sposHi
  | blkidxLo
  | blkidxHi
  | erraddr
  | blktag
  /-- KEYj -/
  | key (j : Nat)
  /-- IVj -/
  | iv (j : Nat)
  /-- DIVj -/
  | div (j : Nat)
  /-- V0[k] -/
  | v0 (k : Nat)
  /-- V1[k] -/
  | v1 (k : Nat)
  /-- V2[k] -/
  | v2 (k : Nat)
  /-- KS[k] -/
  | ks (k : Nat)
  | reserved
deriving DecidableEq, Repr

/-- What can happen next: the host's accesses to the window (R20), another agent's accesses to data memory as they
are performed (20_memory R70, R72), the engine's turn (R4, R255), the reset input (70_reset R280, R281). The model's
own type (log 2). -/
inductive Event where
  /-- the host reads `width` bytes at offset `off` of the window -/
  | read (off : BitVec 12) (width : Nat)
  /-- the host writes `width` bytes, `v`, at offset `off` of the window -/
  | write (off : BitVec 12) (width : Nat) (v : Word)
  /-- the host or another agent reads the data-memory byte at `a` -/
  | memLoad (a : Word)
  /-- the host or another agent writes the data-memory byte at `a` -/
  | memStore (a : Word) (b : Byte)
  /-- the engine executes and completes the command in progress, if there is one -/
  | engine
  /-- reset is asserted -/
  | reset
deriving DecidableEq, Repr

/-- What the last read of the host, or memory load of another agent, returned. The model's own type (log 2). -/
inductive Response where
  | none
  | word (v : Word)
  | byte (b : Byte)
deriving DecidableEq, Repr

/-- Data memory: (address, byte) pairs in the canonical form `Memory.wf` of Machine/Ops.lean. -/
abbrev Memory := List Host.Cell

/-- All the state of the block (10_state R47), the data memory it reaches, the parameters of the part, and the
model's own fields `agenda`, `response` and `freeIdx`. -/
structure State where
  /-- CTRL.IE (R24) -/
  ie : Bool
  /-- STATUS.DONE (R25) -/
  done : Bool
  /-- STATUS.IGN (R25) -/
  ign : Bool
  /-- STATUS.ERR (R25, R250) -/
  err : ErrCode
  /-- STATUS.TIER_USED (R25); none is code 0, none yet -/
  tierUsed : Option Tier
  /-- STATUS.BLK_VALID (R25, R45) -/
  blkValid : Bool
  /-- the command in progress (R26, R259); STATUS.BUSY is 1 exactly when there is one (log 7) -/
  inProgress : Option Word
  /-- ADDR (R27) -/
  addr : Word
  /-- LEN (R28) -/
  len : Word
  /-- CNT (R29) -/
  cnt : Word
  /-- KEYLEN (R30) -/
  keylen : BitVec 6
  /-- IVLEN (R31) -/
  ivlen : BitVec 5
  /-- DIN (R32) -/
  din : Word
  /-- DOUT (R33) -/
  dout : Word
  /-- SPOS (R34) -/
  spos : DWord
  /-- BLKIDX (R35) -/
  blkidx : DWord
  /-- ERRADDR (R36) -/
  erraddr : Word
  /-- BLKTAG (R37): PRIM in bits 3:0, TIER in bits 5:4 -/
  blktag : BitVec 6
  /-- KEY0 .. KEY7 (R38) -/
  key : Vector Word 8
  /-- IV0 .. IV3 (R39) -/
  iv : Vector Word 4
  /-- DIV0 .. DIV3 (R40) -/
  div : Vector Word 4
  /-- V0 (R41) -/
  v0 : Vector Word 16
  /-- V1 (R41) -/
  v1 : Vector Word 16
  /-- V2 (R41) -/
  v2 : Vector Word 16
  /-- KS (R43) -/
  ks : Vector Word 16
  /-- BLKBUF (R45): 4096 bytes, byte 0 first -/
  blkbuf : List Byte
  /-- data memory (20_memory R60) -/
  mem : Memory
  /-- the parameters of the part (R5, R9, R60); no step changes them (log 3) -/
  params : Params
  /-- the MODEL's: the events still to come, the next one first (log 2) -/
  agenda : List Event
  /-- the MODEL's: what the last read returned (log 2) -/
  response : Response
  /-- the MODEL's: the index of the next free value (log 8) -/
  freeIdx : Nat
deriving DecidableEq, Repr

/-- The machine right after reset (70_reset R280). BLKBUF is unspecified there: 4096 bytes of 0 (DESIGN CHOICE,
log 6). Memory lists nothing (log 5). The parameters are open (log 3). -/
def State.reset : State where
  ie := false
  done := false
  ign := false
  err := .ok
  tierUsed := none
  blkValid := false
  inProgress := none
  addr := 0
  len := 0
  cnt := 0
  keylen := 0
  ivlen := 0
  din := 0
  dout := 0
  spos := 0
  blkidx := 0
  erraddr := 0
  blktag := 0
  key := Vector.replicate 8 0
  iv := Vector.replicate 4 0
  div := Vector.replicate 4 0
  v0 := Vector.replicate 16 0
  v1 := Vector.replicate 16 0
  v2 := Vector.replicate 16 0
  ks := Vector.replicate 16 0
  blkbuf := List.replicate 4096 0
  mem := []
  params := Config.params
  agenda := []
  response := .none
  freeIdx := 0

end Sys2Proof.Machine
end

