-- ==== Sys2Proof/Machine/Float64.lean ====
section
/-! DEFINITION. IEEE 754 binary64 arithmetic, rounded to nearest with ties to even (00_scope R14; 40_primitives R111).

A finite value is held exactly as a whole number of units of 2^-1074, the least positive binary64; an operation
computes its exact result as a fraction of such units and rounds once, in `roundUnits`. Subnormals need no case of
their own. Where the result is a NaN, an operation answers the value `nan` that its caller hands it: the spec leaves
sign and payload open (log 9). -/

namespace Sys2Proof.Machine

/-- The magnitude of a pattern: the 63 bits below the sign. -/
def magnitude (a : F64) : Nat := a.toNat % 2 ^ 63
/-- The magnitude pattern of an infinity: exponent field all ones, fraction 0. -/
def infMagnitude : Nat := 0x7FF * 2 ^ 52
/-- The sign bit. -/
def signBit (a : F64) : Bool := 2 ^ 63 ≤ a.toNat
/-- The pattern with this sign and magnitude. -/
def packFloat (sign : Bool) (m : Nat) : F64 := BitVec.ofNat 64 ((if sign then 2 ^ 63 else 0) + m)
/-- A NaN: exponent field all ones, fraction not 0. -/
def isNaN (a : F64) : Bool := infMagnitude < magnitude a
/-- An infinity. -/
def isInf (a : F64) : Bool := magnitude a == infMagnitude

/-- The quiet NaN with the sign and payload of `f` (R111). -/
def quietNaN (f : BitVec 52) : F64 := f.extractLsb' 51 1 ++ 0xFFF#12 ++ f.extractLsb' 0 51

/-- The magnitude of a finite value, in units of 2^-1074. -/
def units (a : F64) : Nat :=
  let e := magnitude a / 2 ^ 52
  let f := magnitude a % 2 ^ 52
  if e = 0 then f else (2 ^ 52 + f) * 2 ^ (e - 1)

/-- num / den rounded to the nearest whole number, ties to even. -/
def roundHalfEven (num den : Nat) : Nat :=
  let q := num / den
  let r := num % den
  if den < 2 * r ∨ (2 * r = den ∧ q % 2 = 1) then q + 1 else q

/-- The magnitude pattern nearest to num / den units. The unit in the last place of a value of `num / den` units is
2^k units; in the pattern the binade above k counts 2^52 to the significand, and a carry out of the significand
moves into the next binade by itself. What passes the greatest finite value is an infinity. -/
def roundUnits (num den : Nat) : Nat :=
  let k := Nat.log2 (num / den) - 52
  min (k * 2 ^ 52 + roundHalfEven num (den * 2 ^ k)) infMagnitude

/-- Binary64 addition. -/
def fadd (nan a b : F64) : F64 :=
  if isNaN a || isNaN b then nan
  else if isInf a then
    if isInf b && signBit a != signBit b then nan else a
  else if isInf b then b
  else
    let ua := units a
    let ub := units b
    if signBit a == signBit b then packFloat (signBit a) (roundUnits (ua + ub) 1)
    else if ub < ua then packFloat (signBit a) (roundUnits (ua - ub) 1)
    else if ua < ub then packFloat (signBit b) (roundUnits (ub - ua) 1)
    else packFloat false 0

/-- The value with the other sign. -/
def fneg (a : F64) : F64 := packFloat (!signBit a) (magnitude a)

/-- Binary64 subtraction. -/
def fsub (nan a b : F64) : F64 :=
  if isNaN a || isNaN b then nan else fadd nan a (fneg b)

/-- Binary64 multiplication. -/
def fmul (nan a b : F64) : F64 :=
  let sign := signBit a != signBit b
  if isNaN a || isNaN b then nan
  else if isInf a || isInf b then
    if magnitude a == 0 || magnitude b == 0 then nan else packFloat sign infMagnitude
  else packFloat sign (roundUnits (units a * units b) (2 ^ 1074))

/-- Binary64 division. -/
def fdiv (nan a b : F64) : F64 :=
  let sign := signBit a != signBit b
  if isNaN a || isNaN b then nan
  else if isInf a then
    if isInf b then nan else packFloat sign infMagnitude
  else if isInf b then packFloat sign 0
  else if magnitude b == 0 then
    if magnitude a == 0 then nan else packFloat sign infMagnitude
  else packFloat sign (roundUnits (units a * 2 ^ 1074) (units b))

/-- The order of values that are no NaN: the signed magnitude, where both zeros are 0. -/
def floatKey (a : F64) : Int := if signBit a then -(magnitude a : Int) else (magnitude a : Int)

/-- The IEEE ordered less-than (R14). -/
def flt (a b : F64) : Bool := !isNaN a && !isNaN b && floatKey a < floatKey b

/-- floor_f of a finite value that is not negative (R14), as an exact whole number. -/
def floorUnits (a : F64) : Nat := units a / 2 ^ 1074

/-- The binary64 value of a u32, exact because a u32 has at most 53 bits. -/
def ofWord (x : Word) : F64 := packFloat false (roundUnits (x.toNat * 2 ^ 1074) 1)

end Sys2Proof.Machine
end

