-- ==== Sys2Proof/Machine/Primitives.lean ====
section
/-! DEFINITION. The pure functions of 40_primitives and 42_mixer: tiers and lane counts, the six integer and six float
transitions, the combine function and the avalanche mix. They read and write no register. -/

namespace Sys2Proof.Machine

/-! ### Tiers (R100, R101) -/

/-- The tier codes of R100. -/
def tierCode : Tier → BitVec 2
  | .scalar => 1
  | .w256 => 2
  | .w512 => 3

/-- Lu(T), the u32 lanes of a tier (R100). -/
def lanesU : Tier → Nat
  | .scalar => 1
  | .w256 => 8
  | .w512 => 16

/-- Lf(T), the f64 lanes of a tier (R100). -/
def lanesF : Tier → Nat
  | .scalar => 1
  | .w256 => 4
  | .w512 => 8

/-- W(T), the stride in bytes (R100). -/
def stride (T : Tier) : Nat := 4 * lanesU T

/-- resolve of R101; none is its `raise INVALID_ARGUMENT`. -/
def resolve (p : Params) : TierReq → Option Tier
  | .auto => some (if p.hasW512 then .w512 else if p.hasW256 then .w256 else .scalar)
  | .scalar => some .scalar
  | .w256 => if p.hasW256 then some .w256 else none
  | .w512 => if p.hasW512 then some .w512 else none

/-! ### Bytes and words (R12, R13) -/

/-- byte_j of a u32 (R13). -/
def byteOf (w : Word) (j : Nat) : Byte := w.extractLsb' (8 * j) 8

/-- u32_le (R13). -/
def wordLE (b0 b1 b2 b3 : Byte) : Word := b3 ++ b2 ++ b1 ++ b0

/-- mul64, the exact 64-bit product (R12). -/
def mul64 (a b : Word) : DWord := a.setWidth 64 * b.setWidth 64

/-- lo32 (R12). -/
def lo32 (p : DWord) : Word := p.extractLsb' 0 32

/-- hi32 (R12). -/
def hi32 (p : DWord) : Word := p.extractLsb' 32 32

/-! ### The integer transitions (R104 .. R109) -/

/-- Integer Tent (R104). -/
def itent (x : Word) : Word :=
  (if x.toNat < 2 ^ 31 then x.rotateLeft 1 else (~~~x).rotateLeft 1) + 0x9E3779B9

/-- Integer Logistic (R105). -/
def ilog (x : Word) : Word := lo32 (mul64 x (~~~x) >>> 30) + 0x61C88647

/-- 1.0 -/
def fOne : F64 := 0x3FF0000000000000
/-- 0.5 -/
def fHalf : F64 := 0x3FE0000000000000
/-- 4.0 -/
def fFour : F64 := 0x4010000000000000
/-- 5.0 -/
def fFive : F64 := 0x4014000000000000
/-- 16.0 -/
def fSixteen : F64 := 0x4030000000000000
/-- 2^32 -/
def fTwo32 : F64 := 0x41F0000000000000
/-- 2^-32 -/
def fTwoMinus32 : F64 := 0x3DF0000000000000

/-- Integer Sine with the NaN supply of its operations left to the caller; none of them can return a NaN (R106). -/
def isineWith (nan : Nat → F64) (x : Word) : Word :=
  let v := fmul (nan 0) (ofWord x) fTwoMinus32
  let a := fsub (nan 1) fOne v
  let num := fmul (nan 4) fFour (fmul (nan 3) (fmul (nan 2) fSixteen v) a)
  let den := fsub (nan 7) fFive (fmul (nan 6) (fmul (nan 5) fFour v) a)
  let s := fdiv (nan 8) num den
  let w := fmul (nan 9) s fTwo32
  BitVec.ofNat 32 (floorUnits w) + 0xB504F333

/-- Integer Sine (R106). -/
def isine (x : Word) : Word := isineWith (fun op => quietNaN (Config.freeNaN 0 0 0 op)) x

/-- Integer Henon (R107); z is handed on. -/
def ihenon (s : Tri Word) : Tri Word :=
  let p := mul64 s.x s.x
  let t := lo32 p ^^^ hi32 p
  { s with x := (s.y + 0x6D2B79F5) - t, y := s.x }

/-- Integer Lorenz (R108): all three differences from the pre-update state. -/
def ilorenz (s : Tri Word) : Tri Word :=
  let dx := (s.y - s.x) >>> 2
  let dy := (s.x ^^^ (s.y >>> 3)) - s.z
  let dz := (s.x + s.y) ^^^ (s.z <<< 1)
  ⟨s.x + dx, s.y + dy, s.z + dz⟩

/-- Integer Chen (R109): all three differences from the pre-update state. -/
def ichen (s : Tri Word) : Tri Word :=
  let e := s.y - s.x
  let dx := e + (e <<< 1)
  let dy := (s.x ^^^ (s.y <<< 2)) + (s.z >>> 1)
  let dz := (s.x + s.y) ^^^ (s.z + (s.z <<< 1))
  ⟨s.x + dx, s.y + dy, s.z + dz⟩

/-- The transition f_P of an integer primitive on a lane's state; components past the dimensionality are handed on. -/
def intTransition : IntPrim → Tri Word → Tri Word
  | .itent, s => { s with x := itent s.x }
  | .ilog, s => { s with x := ilog s.x }
  | .isine, s => { s with x := isine s.x }
  | .ihenon, s => ihenon s
  | .ilorenz, s => ilorenz s
  | .ichen, s => ichen s

/-- The dimensionality of an integer primitive (R86, R110). -/
def intDim : IntPrim → Nat
  | .itent => 1
  | .ilog => 1
  | .isine => 1
  | .ihenon => 2
  | .ilorenz => 3
  | .ichen => 3

/-- The PRIM code of an integer primitive (30_encoding R86), as BLKTAG holds it (10_state R37). -/
def primCode : IntPrim → BitVec 4
  | .itent => 0
  | .ilog => 1
  | .isine => 2
  | .ihenon => 3
  | .ilorenz => 4
  | .ichen => 5

/-- comb_D (R120). -/
def comb (p : IntPrim) (s : Tri Word) : Word :=
  match intDim p with
  | 1 => s.x
  | 2 => s.x ^^^ s.y
  | _ => s.x ^^^ s.y ^^^ s.z

/-! ### The float transitions (R111 .. R119)

Each takes `nan`, which gives every operation of the transition the NaN it returns if its result is one (R111, log 9). -/

/-- LOG_R, binary64 nearest 3.99 (00_scope R9). -/
def logR : F64 := 0x400FEB851EB851EC
/-- TENT_MU, binary64 nearest 1.9999 (00_scope R9). -/
def tentMu : F64 := 0x3FFFFF972474538F
/-- LORENZ_SIGMA = 10.0 (00_scope R9). -/
def lorenzSigma : F64 := 0x4024000000000000
/-- LORENZ_RHO = 28.0 (00_scope R9). -/
def lorenzRho : F64 := 0x403C000000000000
/-- LORENZ_BETA, binary64 nearest 8/3 (00_scope R9). -/
def lorenzBeta : F64 := 0x4005555555555555
/-- LORENZ_DT, binary64 nearest 0.01 (00_scope R9). -/
def lorenzDt : F64 := 0x3F847AE147AE147B

/-- Logistic (R112). -/
def flog (nan : Nat → F64) (x : F64) : F64 :=
  fmul (nan 2) (fmul (nan 0) logR x) (fsub (nan 1) fOne x)

/-- Tent (R113): 0.5 and a NaN take the second branch. -/
def ftent (nan : Nat → F64) (x : F64) : F64 :=
  if flt x fHalf then fmul (nan 0) tentMu x
  else fmul (nan 1) tentMu (fsub (nan 0) fOne x)

/-- Sine at the scalar tier (R114). -/
def fsineScalar (p : Params) (nan : Nat → F64) (x : F64) : F64 :=
  fmul (nan 0) p.sineR (Config.sinPi x)

/-- Sine at the wide tiers, the Bhaskara I approximation (R115). -/
def fsineWide (p : Params) (nan : Nat → F64) (x : F64) : F64 :=
  let a := fsub (nan 0) fOne x
  let num := fmul (nan 2) (fmul (nan 1) fSixteen x) a
  let den := fsub (nan 5) fFive (fmul (nan 4) (fmul (nan 3) fFour x) a)
  fdiv (nan 7) (fmul (nan 6) p.sineR num) den

/-- Sine at a tier (R119). -/
def fsine (p : Params) (T : Tier) (nan : Nat → F64) (x : F64) : F64 :=
  match T with
  | .scalar => fsineScalar p nan x
  | .w256 => fsineWide p nan x
  | .w512 => fsineWide p nan x

/-- Henon (R116): y' takes the pre-update x; z is handed on. -/
def fhenon (p : Params) (nan : Nat → F64) (s : Tri F64) : Tri F64 :=
  { s with
    x := fadd (nan 3) (fsub (nan 2) fOne (fmul (nan 1) p.henonA (fmul (nan 0) s.x s.x))) s.y
    y := fmul (nan 4) p.henonB s.x }

/-- Lorenz (R117): all three differences from the pre-update state. -/
def florenz (nan : Nat → F64) (s : Tri F64) : Tri F64 :=
  let dx := fmul (nan 2) (fmul (nan 1) lorenzSigma (fsub (nan 0) s.y s.x)) lorenzDt
  let dy := fmul (nan 6) (fsub (nan 5) (fmul (nan 4) s.x (fsub (nan 3) lorenzRho s.z)) s.y) lorenzDt
  let dz := fmul (nan 10) (fsub (nan 9) (fmul (nan 7) s.x s.y) (fmul (nan 8) lorenzBeta s.z)) lorenzDt
  ⟨fadd (nan 11) s.x dx, fadd (nan 12) s.y dy, fadd (nan 13) s.z dz⟩

/-- Chen (R118): all three differences from the pre-update state, added as an Euler step. -/
def fchen (p : Params) (nan : Nat → F64) (s : Tri F64) : Tri F64 :=
  let dx := fmul (nan 2) (fmul (nan 1) p.chenA (fsub (nan 0) s.y s.x)) p.chenDt
  let cax := fmul (nan 4) (fsub (nan 3) p.chenC p.chenA) s.x
  let dy := fmul (nan 9)
    (fadd (nan 8) (fsub (nan 6) cax (fmul (nan 5) s.x s.z)) (fmul (nan 7) p.chenC s.y)) p.chenDt
  let dz := fmul (nan 13) (fsub (nan 12) (fmul (nan 10) s.x s.y) (fmul (nan 11) p.chenB s.z)) p.chenDt
  ⟨fadd (nan 14) s.x dx, fadd (nan 15) s.y dy, fadd (nan 16) s.z dz⟩

/-- The transition f_P,T of a float primitive on a lane's state; components past the dimensionality are handed on. -/
def floatTransition (p : Params) (T : Tier) (nan : Nat → F64) : FloatPrim → Tri F64 → Tri F64
  | .flog, s => { s with x := flog nan s.x }
  | .ftent, s => { s with x := ftent nan s.x }
  | .fsine, s => { s with x := fsine p T nan s.x }
  | .fhenon, s => fhenon p nan s
  | .florenz, s => florenz nan s
  | .fchen, s => fchen p nan s

/-- The dimensionality of a float primitive (R86). -/
def floatDim : FloatPrim → Nat
  | .flog => 1
  | .ftent => 1
  | .fsine => 1
  | .fhenon => 2
  | .florenz => 3
  | .fchen => 3

/-! ### The avalanche mix (42_mixer R160, R161) -/

/-- mix (R160). -/
def mix (k : Word) : Word :=
  let a := k * 0x85EBCA6B
  let b := a ^^^ (a >>> 16)
  let c := b * 0xC2B2AE35
  c ^^^ (c >>> 13)

/-- unmix, the inverse that R161 gives; no command computes it. -/
def unmix (k : Word) : Word :=
  let a := k ^^^ (k >>> 13) ^^^ (k >>> 26)
  let b := a * 0x7ED1B41D
  let c := b ^^^ (b >>> 16)
  c * 0xA5CB9243

end Sys2Proof.Machine
end

