-- ==== Sys2Proof/Machine/Operands.lean ====
section
/-! DEFINITION. The operands of the commands: the u32 and the f64 view of the lane state file (10_state R41, R42, R44),
the key words and IV words (43_cipher R180, R181), the derived IV and the block partition (44_stream R220, R221), the
buffer and MemAdmits (20_memory R60, R67). -/

namespace Sys2Proof.Machine

/-- Element k of a vector of words. -/
def word {n : Nat} (v : Vector Word n) (k : Nat) : Word := v.toList.getD k 0

/-- The vector whose lane k is f k. -/
def buildLanes (f : Nat → Word) : Vector Word 16 :=
  #v[f 0, f 1, f 2, f 3, f 4, f 5, f 6, f 7, f 8, f 9, f 10, f 11, f 12, f 13, f 14, f 15]

/-- The vectors V0, V1, V2 of the lane state file (R41). -/
abbrev LaneFile := Tri (Vector Word 16)

/-- The lane state file of a state (R41). -/
def laneFile (s : State) : LaneFile := ⟨s.v0, s.v1, s.v2⟩

/-- The state with the lane state file W. -/
def withLaneFile (W : LaneFile) (s : State) : State := { s with v0 := W.x, v1 := W.y, v2 := W.z }

/-- Lane k in the u32 view (R41, R44). -/
def laneAt (W : LaneFile) (k : Nat) : Tri Word := ⟨word W.x k, word W.y k, word W.z k⟩

/-- V with u32 lane k replaced by f k for every active lane k < L; the others keep their values (R102). -/
def mergeLanes (L : Nat) (f : Nat → Word) (V : Vector Word 16) : Vector Word 16 :=
  buildLanes fun k => if k < L then f k else word V k

/-- W with the active u32 lanes of its first D vectors replaced (R44, R102). -/
def storeLanes (D L : Nat) (f : Nat → Tri Word) (W : LaneFile) : LaneFile where
  x := mergeLanes L (fun k => (f k).x) W.x
  y := if 2 ≤ D then mergeLanes L (fun k => (f k).y) W.y else W.y
  z := if 3 ≤ D then mergeLanes L (fun k => (f k).z) W.z else W.z

/-- f64 lane k of a vector: the low word at the lower lane (R42). -/
def floatLane (V : Vector Word 16) (k : Nat) : F64 := word V (2 * k + 1) ++ word V (2 * k)

/-- Lane k in the f64 view (R42, R44). -/
def floatLaneAt (W : LaneFile) (k : Nat) : Tri F64 := ⟨floatLane W.x k, floatLane W.y k, floatLane W.z k⟩

/-- The low (0) or high (1) word of a binary64 pattern (R42). -/
def floatHalf (a : F64) (h : Nat) : Word := if h = 0 then a.extractLsb' 0 32 else a.extractLsb' 32 32

/-- V with f64 lane k replaced by f k for every active lane k < L (R42, R102). -/
def mergeFloatLanes (L : Nat) (f : Nat → F64) (V : Vector Word 16) : Vector Word 16 :=
  buildLanes fun j => if j < 2 * L then floatHalf (f (j / 2)) (j % 2) else word V j

/-- W with the active f64 lanes of its first D vectors replaced (R44, R102). -/
def storeFloatLanes (D L : Nat) (f : Nat → Tri F64) (W : LaneFile) : LaneFile where
  x := mergeFloatLanes L (fun k => (f k).x) W.x
  y := if 2 ≤ D then mergeFloatLanes L (fun k => (f k).y) W.y else W.y
  z := if 3 ≤ D then mergeFloatLanes L (fun k => (f k).z) W.z else W.z

/-- keyword(i) (R180). -/
def keyWord (key : Vector Word 8) (i : Nat) : Word := word key (i % 8)

/-- Byte j of the IV register (R39). -/
def ivByte (iv : Vector Word 4) (j : Nat) : Byte := byteOf (word iv (j / 4)) (j % 4)

/-- ivword(i) for an IV of n ≥ 4 bytes: the bytes are taken cyclically inside the IV (R181). -/
def ivWord (iv : Vector Word 4) (n i : Nat) : Word :=
  let o := (4 * i) % n
  wordLE (ivByte iv (o % n)) (ivByte iv ((o + 1) % n)) (ivByte iv ((o + 2) % n)) (ivByte iv ((o + 3) % n))

/-- derive_iv in register form (R221). -/
def deriveIv (iv : Vector Word 4) (b : DWord) : Vector Word 4 :=
  #v[word iv 0 ^^^ lo32 b, word iv 1 ^^^ hi32 b, word iv 2, word iv 3]

/-- S, the block size (00_scope R7). -/
def blockSize : Nat := 4096

/-- MemAdmits (R60). -/
def memAdmits (p : Params) (a : Nat) : Bool := p.admitted.any fun r => r.1 ≤ a && a ≤ r.2

/-- The lowest of the n addresses from a on that MemAdmits rejects, if there is one (R66). -/
def firstRejected (p : Params) : (n a : Nat) → Option Nat
  | 0, _ => none
  | n + 1, a => if memAdmits p a then firstRejected p n (a + 1) else some a

/-- ADDR + LEN > 2^32, computed without wrap-around (R67). -/
def bufferPastEnd (s : State) : Bool := 2 ^ 32 < s.addr.toNat + s.len.toNat

/-- SPOS + LEN > 2^64, computed without wrap-around (R227). -/
def streamPastEnd (s : State) : Bool := 2 ^ 64 < s.spos.toNat + s.len.toNat

end Sys2Proof.Machine
end

