-- ==== Sys2Proof/Machine/Flags.lean ====
section
/-! DEFINITION. The STATUS register: the codes of its fields, the word a read returns, what a write clears (10_state
R25; 60_exceptions R250; 70_reset R291), and the interrupt output (60_exceptions R260). The block has no other
condition flag (R47). -/

namespace Sys2Proof.Machine

/-- The 4-bit code of an error (R250). -/
def errCode : ErrCode → BitVec 4
  | .ok => 0
  | .illegalCmd => 1
  | .invalidKey => 2
  | .invalidArgument => 3
  | .accessFault => 4
  | .shapeMismatch => 5
  | .invalidRange => 6

/-- STATUS.BUSY: a command is in progress (R25). -/
def busy (s : State) : Bool := s.inProgress.isSome

/-- STATUS.TIER_USED (R25): 0 while none. -/
def tierUsedCode : Option Tier → BitVec 2
  | none => 0
  | some T => tierCode T

/-- The STATUS word of the fields (R25): bits 31:17, 15:10 and 3 are reserved and read 0. -/
def packStatus (blkValid : Bool) (tier : BitVec 2) (err : BitVec 4) (ign done busy : Bool) : Word :=
  0#15 ++ BitVec.ofBool blkValid ++ 0#6 ++ tier ++ err ++ 0#1 ++ BitVec.ofBool ign ++ BitVec.ofBool done ++ BitVec.ofBool busy

/-- What STATUS reads as while BUSY = 0 (R25). -/
def statusWord (s : State) : Word :=
  packStatus s.blkValid (tierUsedCode s.tierUsed) (errCode s.err) s.ign s.done (busy s)

/-- What STATUS reads as while BUSY = 1 (R291): BUSY = 1, DONE = 0, ERR = 0, the true IGN; TIER_USED and BLK_VALID
read any value, here those bits of `free`. -/
def statusWordBusy (free : Word) (s : State) : Word :=
  packStatus (free.getLsbD 16) (free.extractLsb' 8 2) 0 s.ign false true

/-- A write of v to STATUS (R25): bit 1 clears DONE, bit 2 clears IGN, nothing else changes. -/
def writeStatus (v : Word) (s : State) : State :=
  { s with done := s.done && !v.getLsbD 1, ign := s.ign && !v.getLsbD 2 }

/-- The interrupt output (R260). -/
def irq (s : State) : Bool := s.done && s.ie

end Sys2Proof.Machine
end

