-- ==== Sys2Proof/Machine/Ops.lean ====
section
/-! DEFINITION. The named operations: data memory one byte at a time (20_memory R65), the issue of a command (10_state
R26), its completion and an error's raise (60_exceptions R255, R256), the acknowledge (R258), the tags of the block
cache (44_stream R224, R225). -/

namespace Sys2Proof.Machine

/-! ### Data memory -/

/-- What a byte of data memory that is not listed reads as. The spec gives data memory no contents: 0x00 (DESIGN
CHOICE, unsafe, log 5). -/
def unlistedByte : Byte := 0

/-- The byte at address a (MemRead of 00_scope R15). -/
def readByte : Memory → Nat → Byte
  | [], _ => unlistedByte
  | (b, v) :: m, a => if a = b then v else readByte m a

/-- Memory with v at address a (MemWrite of R15), in canonical form: rising addresses, nothing listed that reads as an
unlisted byte does. -/
def writeByte : Memory → Nat → Byte → Memory
  | [], a, v => if v = unlistedByte then [] else [(a, v)]
  | (b, u) :: m, a, v =>
    if a < b then (if v = unlistedByte then (b, u) :: m else (a, v) :: (b, u) :: m)
    else if a = b then (if v = unlistedByte then m else (a, v) :: m)
    else (b, u) :: writeByte m a v

/-- Canonical form from address lo on: strictly rising addresses below 2^32, no entry equal to an unlisted byte. -/
def wfFrom (lo : Nat) : Memory → Bool
  | [] => true
  | (b, v) :: m => decide (lo ≤ b) && decide (b < 2 ^ 32) && !decide (v = unlistedByte) && wfFrom (b + 1) m

/-- The canonical form of data memory (20_memory R60: 2^32 byte addresses). -/
def Memory.wf (m : Memory) : Bool := wfFrom 0 m

/-- XorByte(a, k) (R65). -/
def xorByte (m : Memory) (a : Nat) (k : Byte) : Memory := writeByte m a (readByte m a ^^^ k)

/-- XorByte(a + i, k_i) for the bytes k_0, k_1, .. in ascending order (R65). -/
def xorBytes : Memory → Nat → List Byte → Memory
  | m, _, [] => m
  | m, a, k :: ks => xorBytes (xorByte m a k) (a + 1) ks

/-- Memory with the n bytes from a on made free values: byte a + i becomes free (a + i) (R281). -/
def freeBytes (free : Nat → Byte) : (n a : Nat) → Memory → Memory
  | 0, _, m => m
  | n + 1, a, m => freeBytes free n (a + 1) (writeByte m a (free a))

/-! ### Issue, completion, error, acknowledge -/

/-- The issue of command word w, in one indivisible step: BUSY <- 1, DONE <- 0, ERR <- 0 (10_state R26). -/
def issue (w : Word) (s : State) : State := { s with inProgress := some w, done := false, err := .ok }

/-- complete(E), the block's only event, in one indivisible step: ERR <- E, DONE <- 1, BUSY <- 0 (60_exceptions R255). -/
def complete (e : ErrCode) (s : State) : State := { s with err := e, done := true, inProgress := none }

/-- raise E: complete(E), and no other change (R256). The block's whole "trap entry": no vector, no saved context (R257). -/
def raiseError (e : ErrCode) (s : State) : State := complete e s

/-- raise ACCESS_FAULT: ERRADDR <- the rejected address, immediately before the raise (R256; 20_memory R66). -/
def raiseAccessFault (a : Nat) (s : State) : State :=
  raiseError .accessFault { s with erraddr := BitVec.ofNat 32 a }

/-- TIER_USED <- T, then complete(OK): the end of every command that succeeds and used a tier (10_state R25). -/
def completeAtTier (T : Tier) (s : State) : State := complete .ok { s with tierUsed := some T }

/-- The acknowledge of a completion (R258): the write of 1 to STATUS.DONE. Nothing is restored: nothing was saved. -/
def acknowledge (s : State) : State := writeStatus 0x2 s

/-- An ILLEGAL command word completes at once with ILLEGAL_CMD and changes no state but STATUS (30_encoding R89). -/
def illegalCommand (s : State) : State := raiseError .illegalCmd s

/-! ### Repetition -/

/-- f applied n times, told the number of each application from j on. -/
def repeatFrom {α : Type} (f : Nat → α → α) : (n j : Nat) → α → α
  | 0, _, a => a
  | n + 1, j, a => repeatFrom f n (j + 1) (f j a)

end Sys2Proof.Machine
end

