-- ==== Sys2Proof/Machine/Cipher.lean ====
section
/-! DEFINITION. The cipher core (43_cipher): seed derivation, the keystream, and the commands DERIVE and PROCESS. The
working state W (10_state R46) is the list of the L active lanes that these functions pass on (log 4). -/

namespace Sys2Proof.Machine

/-! ### DeriveSeeds (R182 .. R185) -/

/-- The pre-seed of lane i, with the zero replacement (R182, R183); n is IVLEN. -/
def preSeed (key : Vector Word 8) (iv : Vector Word 4) (n i : Nat) : Word :=
  let s := if 4 ≤ n then keyWord key i ^^^ ivWord iv n i else keyWord key i
  if s = 0 then 0xDEADBEEF else s

/-- Lane i of a list of lanes. -/
def laneOf (S : List (Tri Word)) (i : Nat) : Tri Word := S.getD i ⟨0, 0, 0⟩

/-- S_i[d] xor (N[d] >> 1) in the first D components (R185). -/
def xorNeighbour (D : Nat) (a b : Tri Word) : Tri Word where
  x := a.x ^^^ (b.x >>> 1)
  y := if 2 ≤ D then a.y ^^^ (b.y >>> 1) else a.y
  z := if 3 ≤ D then a.z ^^^ (b.z >>> 1) else a.z

/-- The warm-up of lane i of L, in place: step the lane, then XOR it with its neighbour as that stands now (R185). -/
def warmLane (p : IntPrim) (L : Nat) (S : List (Tri Word)) (i : Nat) : List (Tri Word) :=
  let S' := S.set i (intTransition p (laneOf S i))
  S'.set i (xorNeighbour (intDim p) (laneOf S' i) (laneOf S' ((i + 1) % L)))

/-- One round of the warm-up: the lanes in ascending order (R185). -/
def warmRound (p : IntPrim) (L : Nat) (S : List (Tri Word)) : List (Tri Word) :=
  (List.range L).foldl (warmLane p L) S

/-- DeriveSeeds(P, T) over a key and the first n bytes of an IV (R182 .. R185). -/
def deriveSeeds (p : IntPrim) (T : Tier) (key : Vector Word 8) (iv : Vector Word 4) (n : Nat) : List (Tri Word) :=
  let L := lanesU T
  (warmRound p L)^[16] ((List.range L).map fun i => let s := preSeed key iv n i; ⟨s, s, s⟩)

/-! ### Keystream (R187 .. R189) -/

/-- The four bytes of a word, least significant first (R188). -/
def wordBytes (w : Word) : List Byte := [byteOf w 0, byteOf w 1, byteOf w 2, byteOf w 3]

/-- One vector iteration's stride of bytes from the lanes as stepped: lane 0's four bytes first (R187, R188). -/
def laneBytes (p : IntPrim) (S : List (Tri Word)) : List Byte :=
  S.flatMap fun a => wordBytes (mix (comb p a))

/-- One byte per step from one scalar trajectory: the low byte of the mixed word (R189). -/
def tailBytes (p : IntPrim) : Nat → Tri Word → List Byte
  | 0, _ => []
  | n + 1, t =>
    let t' := intTransition p t
    byteOf (mix (comb p t')) 0 :: tailBytes p n t'

/-- nvec vector iterations, then a scalar tail of m bytes from lane 0 as it then stands (R187). -/
def keystreamFrom (p : IntPrim) : (nvec m : Nat) → List (Tri Word) → List Byte
  | 0, m, S => tailBytes p m (laneOf S 0)
  | n + 1, m, S =>
    let S' := S.map (intTransition p)
    laneBytes p S' ++ keystreamFrom p n m S'

/-- Keystream(P, T, key, iv, n, N): its N bytes (R187). -/
def keystream (p : IntPrim) (T : Tier) (key : Vector Word 8) (iv : Vector Word 4) (n N : Nat) : List Byte :=
  keystreamFrom p (N / stride T) (N % stride T) (deriveSeeds p T key iv n)

/-! ### The commands -/

/-- DERIVE(p, t) (R193). -/
def derive (p : IntPrim) (t : TierReq) (s : State) : State :=
  if s.keylen.toNat < 32 then raiseError .invalidKey s
  else
    match resolve s.params t with
    | none => raiseError .invalidArgument s
    | some T =>
      if 16 < s.ivlen.toNat then raiseError .invalidArgument s
      else
        let S := deriveSeeds p T s.key s.iv s.ivlen.toNat
        completeAtTier T (withLaneFile (storeLanes (intDim p) (lanesU T) (laneOf S) (laneFile s)) s)

/-- PROCESS(p, t) (R200). -/
def process (p : IntPrim) (t : TierReq) (s : State) : State :=
  if s.keylen.toNat < 32 then raiseError .invalidKey s
  else
    match resolve s.params t with
    | none => raiseError .invalidArgument s
    | some T =>
      if 16 < s.ivlen.toNat then raiseError .invalidArgument s
      else if bufferPastEnd s then raiseError .invalidArgument s
      else
        match firstRejected s.params s.len.toNat s.addr.toNat with
        | some a => raiseAccessFault a s
        | none =>
          let K := keystream p T s.key s.iv s.ivlen.toNat s.len.toNat
          completeAtTier T { s with mem := xorBytes s.mem s.addr.toNat K }

/-- DERIVE.ITENT (R194). -/
def execDeriveItent (t : TierReq) (s : State) : Host.Outcome State Fault Refusal := .next (derive .itent t s)
/-- DERIVE.ILOG (R195). -/
def execDeriveIlog (t : TierReq) (s : State) : Host.Outcome State Fault Refusal := .next (derive .ilog t s)
/-- DERIVE.ISINE (R196). -/
def execDeriveIsine (t : TierReq) (s : State) : Host.Outcome State Fault Refusal := .next (derive .isine t s)
/-- DERIVE.IHENON (R197). -/
def execDeriveIhenon (t : TierReq) (s : State) : Host.Outcome State Fault Refusal := .next (derive .ihenon t s)
/-- DERIVE.ILORENZ (R198). -/
def execDeriveIlorenz (t : TierReq) (s : State) : Host.Outcome State Fault Refusal := .next (derive .ilorenz t s)
/-- DERIVE.ICHEN (R199). -/
def execDeriveIchen (t : TierReq) (s : State) : Host.Outcome State Fault Refusal := .next (derive .ichen t s)

/-- PROCESS.ITENT (R201). -/
def execProcessItent (t : TierReq) (s : State) : Host.Outcome State Fault Refusal := .next (process .itent t s)
/-- PROCESS.ILOG (R202). -/
def execProcessIlog (t : TierReq) (s : State) : Host.Outcome State Fault Refusal := .next (process .ilog t s)
/-- PROCESS.ISINE (R203). -/
def execProcessIsine (t : TierReq) (s : State) : Host.Outcome State Fault Refusal := .next (process .isine t s)
/-- PROCESS.IHENON (R204). -/
def execProcessIhenon (t : TierReq) (s : State) : Host.Outcome State Fault Refusal := .next (process .ihenon t s)
/-- PROCESS.ILORENZ (R205). -/
def execProcessIlorenz (t : TierReq) (s : State) : Host.Outcome State Fault Refusal := .next (process .ilorenz t s)
/-- PROCESS.ICHEN (R206). -/
def execProcessIchen (t : TierReq) (s : State) : Host.Outcome State Fault Refusal := .next (process .ichen t s)

end Sys2Proof.Machine
end

