-- ==== Sys2Proof/Machine/Engine.lean ====
section
/-! DEFINITION. The state-transition engine commands NOP and STEP (41_engine). -/

namespace Sys2Proof.Machine

/-- One transition of an integer primitive on the L active u32 lanes: stepv of 40_primitives R102. -/
def stepLanes (p : IntPrim) (L : Nat) (W : LaneFile) : LaneFile :=
  storeLanes (intDim p) L (fun k => intTransition p (laneAt W k)) W

/-- STEP(p, t) for an integer primitive (R141). -/
def stepInt (p : IntPrim) (t : TierReq) (s : State) : State :=
  match resolve s.params t with
  | none => raiseError .invalidArgument s
  | some T =>
    completeAtTier T (withLaneFile ((stepLanes p (lanesU T))^[s.cnt.toNat] (laneFile s)) s)

/-- The NaN that operation `op` of transition `iter` on lane `k` returns, in the command that `cmd` numbers (R111,
log 9). -/
def freeNaN (cmd iter k op : Nat) : F64 := quietNaN (Config.freeNaN cmd iter k op)

/-- One transition of a float primitive on the L active f64 lanes: stepv of 40_primitives R102. -/
def stepFloatLanes (q : Params) (p : FloatPrim) (T : Tier) (cmd iter : Nat) (W : LaneFile) : LaneFile :=
  storeFloatLanes (floatDim p) (lanesF T) (fun k => floatTransition q T (freeNaN cmd iter k) p (floatLaneAt W k)) W

/-- STEP(p, t) for a float primitive (R141). The command takes one index of free values for the NaNs it may meet. -/
def stepFloat (p : FloatPrim) (t : TierReq) (s : State) : State :=
  match resolve s.params t with
  | none => raiseError .invalidArgument s
  | some T =>
    let W := repeatFrom (stepFloatLanes s.params p T s.freeIdx) s.cnt.toNat 0 (laneFile s)
    completeAtTier T { withLaneFile W s with freeIdx := s.freeIdx + 1 }

/-- NOP (R140). -/
def execNop (s : State) : Host.Outcome State Fault Refusal := .next (complete .ok s)

/-- STEP.ITENT (R142). -/
def execStepItent (t : TierReq) (s : State) : Host.Outcome State Fault Refusal := .next (stepInt .itent t s)
/-- STEP.ILOG (R143). -/
def execStepIlog (t : TierReq) (s : State) : Host.Outcome State Fault Refusal := .next (stepInt .ilog t s)
/-- STEP.ISINE (R144). -/
def execStepIsine (t : TierReq) (s : State) : Host.Outcome State Fault Refusal := .next (stepInt .isine t s)
/-- STEP.IHENON (R145). -/
def execStepIhenon (t : TierReq) (s : State) : Host.Outcome State Fault Refusal := .next (stepInt .ihenon t s)
/-- STEP.ILORENZ (R146). -/
def execStepIlorenz (t : TierReq) (s : State) : Host.Outcome State Fault Refusal := .next (stepInt .ilorenz t s)
/-- STEP.ICHEN (R147). -/
def execStepIchen (t : TierReq) (s : State) : Host.Outcome State Fault Refusal := .next (stepInt .ichen t s)
/-- STEP.FLOG (R148). -/
def execStepFlog (t : TierReq) (s : State) : Host.Outcome State Fault Refusal := .next (stepFloat .flog t s)
/-- STEP.FTENT (R149). -/
def execStepFtent (t : TierReq) (s : State) : Host.Outcome State Fault Refusal := .next (stepFloat .ftent t s)
/-- STEP.FSINE (R150). -/
def execStepFsine (t : TierReq) (s : State) : Host.Outcome State Fault Refusal := .next (stepFloat .fsine t s)
/-- STEP.FHENON (R151). -/
def execStepFhenon (t : TierReq) (s : State) : Host.Outcome State Fault Refusal := .next (stepFloat .fhenon t s)
/-- STEP.FLORENZ (R152). -/
def execStepFlorenz (t : TierReq) (s : State) : Host.Outcome State Fault Refusal := .next (stepFloat .florenz t s)
/-- STEP.FCHEN (R153). -/
def execStepFchen (t : TierReq) (s : State) : Host.Outcome State Fault Refusal := .next (stepFloat .fchen t s)

end Sys2Proof.Machine
end

