-- ==== Sys2Proof/Machine/Mixer.lean ====
section
/-! DEFINITION. The avalanche mixer commands MIX and KSGEN (42_mixer). -/

namespace Sys2Proof.Machine

/-- KSGEN(p, t) (R164): V0 .. V2 and the inactive lanes of KS are unchanged. -/
def ksgen (p : IntPrim) (t : TierReq) (s : State) : State :=
  match resolve s.params t with
  | none => raiseError .invalidArgument s
  | some T =>
    completeAtTier T
      { s with ks := mergeLanes (lanesU T) (fun k => mix (comb p (laneAt (laneFile s) k))) s.ks }

/-- MIX (R163). -/
def execMix (s : State) : Host.Outcome State Fault Refusal := .next (complete .ok { s with dout := mix s.din })

/-- KSGEN.ITENT (R165). -/
def execKsgenItent (t : TierReq) (s : State) : Host.Outcome State Fault Refusal := .next (ksgen .itent t s)
/-- KSGEN.ILOG (R166). -/
def execKsgenIlog (t : TierReq) (s : State) : Host.Outcome State Fault Refusal := .next (ksgen .ilog t s)
/-- KSGEN.ISINE (R167). -/
def execKsgenIsine (t : TierReq) (s : State) : Host.Outcome State Fault Refusal := .next (ksgen .isine t s)
/-- KSGEN.IHENON (R168). -/
def execKsgenIhenon (t : TierReq) (s : State) : Host.Outcome State Fault Refusal := .next (ksgen .ihenon t s)
/-- KSGEN.ILORENZ (R169). -/
def execKsgenIlorenz (t : TierReq) (s : State) : Host.Outcome State Fault Refusal := .next (ksgen .ilorenz t s)
/-- KSGEN.ICHEN (R170). -/
def execKsgenIchen (t : TierReq) (s : State) : Host.Outcome State Fault Refusal := .next (ksgen .ichen t s)

end Sys2Proof.Machine
end

