-- ==== Sys2Proof/Machine/Stream.lean ====
section
/-! DEFINITION. The counter-mode seekable stream (44_stream): the block cache and the commands SAPPLY, IVDER and
SINVAL. -/

namespace Sys2Proof.Machine

/-- Block(P, T, key, iv, b) (R222). -/
def block (p : IntPrim) (T : Tier) (key : Vector Word 8) (iv : Vector Word 4) (b : DWord) : List Byte :=
  keystream p T key (deriveIv iv b) 16 blockSize

/-- The keystream byte of the stream at absolute position q: Block(P, T, key, iv, q div 4096)[q mod 4096] (R220, R223). -/
def streamByte (p : IntPrim) (T : Tier) (key : Vector Word 8) (iv : Vector Word 4) (q : Nat) : Byte :=
  (block p T key iv (BitVec.ofNat 64 (q / blockSize))).getD (q % blockSize) 0

/-- BLKTAG for a primitive and a tier: PRIM in bits 3:0, TIER in bits 5:4 (10_state R37). -/
def blockTag (p : IntPrim) (T : Tier) : BitVec 6 := tierCode T ++ primCode p

/-- hit(b, P, T) (R224). -/
def hit (b : DWord) (p : IntPrim) (T : Tier) (s : State) : Bool :=
  s.blkValid && s.blkidx == b && s.blktag == blockTag p T

/-- regenerate(b, P, T) (R225). -/
def regenerate (b : DWord) (p : IntPrim) (T : Tier) (s : State) : State :=
  { s with
    div := deriveIv s.iv b
    blkbuf := block p T s.key s.iv b
    blkidx := b
    blktag := blockTag p T
    blkValid := true }

/-- The cache made to hold block b: nothing on a hit, a regeneration on a miss (R224, R225). -/
def fetchBlock (b : DWord) (p : IntPrim) (T : Tier) (s : State) : State :=
  if hit b p T s then s else regenerate b p T s

/-- The apply loop of R227 with `left` bytes to go, from data-memory address a and stream position pos on. The first
argument bounds the number of iterations: each takes at least one byte, so LEN of them are enough. -/
def applyLoop (p : IntPrim) (T : Tier) : (fuel left a pos : Nat) → State → State
  | 0, _, _, _, s => s
  | fuel + 1, left, a, pos, s =>
    if left = 0 then s
    else
      let inb := pos % blockSize
      let n := min left (blockSize - inb)
      let s := fetchBlock (BitVec.ofNat 64 (pos / blockSize)) p T s
      applyLoop p T fuel (left - n) (a + n) (pos + n)
        { s with mem := xorBytes s.mem a ((s.blkbuf.drop inb).take n) }

/-- SAPPLY(p, t) (R227). -/
def sapply (p : IntPrim) (t : TierReq) (s : State) : State :=
  if s.keylen.toNat < 32 then raiseError .invalidKey s
  else
    match resolve s.params t with
    | none => raiseError .invalidArgument s
    | some T =>
      if s.ivlen.toNat ≠ 16 then raiseError .invalidArgument s
      else if bufferPastEnd s then raiseError .invalidArgument s
      else if streamPastEnd s then raiseError .invalidArgument s
      else
        match firstRejected s.params s.len.toNat s.addr.toNat with
        | some a => raiseAccessFault a s
        | none =>
          let n := s.len.toNat
          let s' := applyLoop p T n n s.addr.toNat s.spos.toNat s
          completeAtTier T { s' with spos := BitVec.ofNat 64 (s.spos.toNat + n) }

/-- IVDER (R234): IVLEN and KEYLEN are not checked. -/
def execIvder (s : State) : Host.Outcome State Fault Refusal :=
  .next (complete .ok { s with div := deriveIv s.iv (s.spos >>> 12) })

/-- SINVAL (R235). -/
def execSinval (s : State) : Host.Outcome State Fault Refusal := .next (complete .ok { s with blkValid := false })

/-- SAPPLY.ITENT (R228). -/
def execSapplyItent (t : TierReq) (s : State) : Host.Outcome State Fault Refusal := .next (sapply .itent t s)
/-- SAPPLY.ILOG (R229). -/
def execSapplyIlog (t : TierReq) (s : State) : Host.Outcome State Fault Refusal := .next (sapply .ilog t s)
/-- SAPPLY.ISINE (R230). -/
def execSapplyIsine (t : TierReq) (s : State) : Host.Outcome State Fault Refusal := .next (sapply .isine t s)
/-- SAPPLY.IHENON (R231). -/
def execSapplyIhenon (t : TierReq) (s : State) : Host.Outcome State Fault Refusal := .next (sapply .ihenon t s)
/-- SAPPLY.ILORENZ (R232). -/
def execSapplyIlorenz (t : TierReq) (s : State) : Host.Outcome State Fault Refusal := .next (sapply .ilorenz t s)
/-- SAPPLY.ICHEN (R233). -/
def execSapplyIchen (t : TierReq) (s : State) : Host.Outcome State Fault Refusal := .next (sapply .ichen t s)

end Sys2Proof.Machine
end

