-- ==== Sys2Proof/Machine/Dispatch.lean ====
section
/-! DEFINITION. exec: the meaning of every command, as the engine executes it, from the issued command to its
completion (60_exceptions R255). -/

namespace Sys2Proof.Machine

def exec (i : Instr) (s : State) : Host.Outcome State Fault Refusal :=
  match i with
  | .nop => Sys2Proof.Machine.execNop s
  | .mix => Sys2Proof.Machine.execMix s
  | .ksgenItent t => Sys2Proof.Machine.execKsgenItent t s
  | .ksgenIlog t => Sys2Proof.Machine.execKsgenIlog t s
  | .ksgenIsine t => Sys2Proof.Machine.execKsgenIsine t s
  | .ksgenIhenon t => Sys2Proof.Machine.execKsgenIhenon t s
  | .ksgenIlorenz t => Sys2Proof.Machine.execKsgenIlorenz t s
  | .ksgenIchen t => Sys2Proof.Machine.execKsgenIchen t s
  | .stepItent t => Sys2Proof.Machine.execStepItent t s
  | .stepIlog t => Sys2Proof.Machine.execStepIlog t s
  | .stepIsine t => Sys2Proof.Machine.execStepIsine t s
  | .stepIhenon t => Sys2Proof.Machine.execStepIhenon t s
  | .stepIlorenz t => Sys2Proof.Machine.execStepIlorenz t s
  | .stepIchen t => Sys2Proof.Machine.execStepIchen t s
  | .stepFlog t => Sys2Proof.Machine.execStepFlog t s
  | .stepFtent t => Sys2Proof.Machine.execStepFtent t s
  | .stepFsine t => Sys2Proof.Machine.execStepFsine t s
  | .stepFhenon t => Sys2Proof.Machine.execStepFhenon t s
  | .stepFlorenz t => Sys2Proof.Machine.execStepFlorenz t s
  | .stepFchen t => Sys2Proof.Machine.execStepFchen t s
  | .deriveItent t => Sys2Proof.Machine.execDeriveItent t s
  | .deriveIlog t => Sys2Proof.Machine.execDeriveIlog t s
  | .deriveIsine t => Sys2Proof.Machine.execDeriveIsine t s
  | .deriveIhenon t => Sys2Proof.Machine.execDeriveIhenon t s
  | .deriveIlorenz t => Sys2Proof.Machine.execDeriveIlorenz t s
  | .deriveIchen t => Sys2Proof.Machine.execDeriveIchen t s
  | .processItent t => Sys2Proof.Machine.execProcessItent t s
  | .processIlog t => Sys2Proof.Machine.execProcessIlog t s
  | .processIsine t => Sys2Proof.Machine.execProcessIsine t s
  | .processIhenon t => Sys2Proof.Machine.execProcessIhenon t s
  | .processIlorenz t => Sys2Proof.Machine.execProcessIlorenz t s
  | .processIchen t => Sys2Proof.Machine.execProcessIchen t s
  | .ivder => Sys2Proof.Machine.execIvder s
  | .sapplyItent t => Sys2Proof.Machine.execSapplyItent t s
  | .sapplyIlog t => Sys2Proof.Machine.execSapplyIlog t s
  | .sapplyIsine t => Sys2Proof.Machine.execSapplyIsine t s
  | .sapplyIhenon t => Sys2Proof.Machine.execSapplyIhenon t s
  | .sapplyIlorenz t => Sys2Proof.Machine.execSapplyIlorenz t s
  | .sapplyIchen t => Sys2Proof.Machine.execSapplyIchen t s
  | .sinval => Sys2Proof.Machine.execSinval s

end Sys2Proof.Machine
end

