-- ==== Sys2Proof/Machine/HostPort.lean ====
section
/-! DEFINITION. What the outside world does to the block: the host's reads and writes of the register window (10_state
R20 .. R49; 70_reset R290, R291), the data-memory accesses of other agents (20_memory R70, R72), reset (70_reset R280
.. R282), and the host programs of 30_encoding R92, R93 as lists of events. -/

namespace Sys2Proof.Machine

/-! ### The register map (R20) -/

/-- The register at a word-aligned offset of the window (R20). -/
def regAt (off : BitVec 12) : Reg :=
  let o := off.toNat
  if o < 0x048 then
    match o with
    | 0x000 => .id
    | 0x004 => .cap
    | 0x008 => .ctrl
    | 0x00C => .status
    | 0x010 => .cmd
    | 0x014 => .addr
    | 0x018 => .len
    | 0x01C => .cnt
    | 0x020 => .keylen
    | 0x024 => .ivlen
    | 0x028 => .din
    | 0x02C => .dout
    | 0x030 => .sposLo
    | 0x034 => .sposHi
    | 0x038 => .blkidxLo
    | 0x03C => .blkidxHi
    | 0x040 => .erraddr
    | 0x044 => .blktag
    | _ => .reserved
  else if o < 0x060 then .reserved
  else if o < 0x080 then .key ((o - 0x060) / 4)
  else if o < 0x090 then .iv ((o - 0x080) / 4)
  else if o < 0x0A0 then .div ((o - 0x090) / 4)
  else if o < 0x100 then .reserved
  else if o < 0x140 then .v0 ((o - 0x100) / 4)
  else if o < 0x180 then .v1 ((o - 0x140) / 4)
  else if o < 0x1C0 then .v2 ((o - 0x180) / 4)
  else if o < 0x200 then .ks ((o - 0x1C0) / 4)
  else .reserved

/-- The value of a register while BUSY = 0: write-only CMD and reserved offsets read 0, reserved bits read 0 (R20 .. R43). -/
def readReg (r : Reg) (s : State) : Word :=
  match r with
  | .id => 0x43484537
  | .cap => 0#29 ++ BitVec.ofBool s.params.hasW512 ++ BitVec.ofBool s.params.hasW256 ++ 1#1
  | .ctrl => 0#31 ++ BitVec.ofBool s.ie
  | .status => statusWord s
  | .cmd => 0
  | .addr => s.addr
  | .len => s.len
  | .cnt => s.cnt
  | .keylen => s.keylen.setWidth 32
  | .ivlen => s.ivlen.setWidth 32
  | .din => s.din
  | .dout => s.dout
  | .sposLo => lo32 s.spos
  | .sposHi => hi32 s.spos
  | .blkidxLo => lo32 s.blkidx
  | .blkidxHi => hi32 s.blkidx
  | .erraddr => s.erraddr
  | .blktag => s.blktag.setWidth 32
  | .key j => word s.key j
  | .iv j => word s.iv j
  | .div j => word s.div j
  | .v0 k => word s.v0 k
  | .v1 k => word s.v1 k
  | .v2 k => word s.v2 k
  | .ks k => word s.ks k
  | .reserved => 0

/-- The registers a command can write: while BUSY = 1 they read any value (R291). -/
def resultReg : Reg → Bool
  | .dout => true
  | .sposLo => true
  | .sposHi => true
  | .blkidxLo => true
  | .blkidxHi => true
  | .erraddr => true
  | .blktag => true
  | .div _ => true
  | .v0 _ => true
  | .v1 _ => true
  | .v2 _ => true
  | .ks _ => true
  | .id => false
  | .cap => false
  | .ctrl => false
  | .status => false
  | .cmd => false
  | .addr => false
  | .len => false
  | .cnt => false
  | .keylen => false
  | .ivlen => false
  | .din => false
  | .key _ => false
  | .iv _ => false
  | .reserved => false

/-- The bits of a result register that a command can write: BLKTAG has six, and its reserved bits 31:6 read 0 at any
time (R21, R37); every other result register has 32. -/
def resultBits : Reg → Word
  | .blktag => 0x0000003F
  | _ => 0xFFFFFFFF

/-- What a host read of a register returns (R20, R25, R291); `free` is the free value of a read while BUSY = 1, of which
a result register shows the bits that a command can write. -/
def readValue (free : Word) (r : Reg) (s : State) : Word :=
  if busy s then
    if r = .status then statusWordBusy free s
    else if resultReg r then free &&& resultBits r
    else readReg r s
  else readReg r s

/-- A host read of register r: the value goes to the host, the block does not change (R49). -/
def readRegister (r : Reg) (s : State) : State :=
  { s with response := .word (readValue (Config.freeWord s.freeIdx) r s), freeIdx := s.freeIdx + 1 }

/-- The block cache invalidated, as every accepted write to a key or IV register does (R48). -/
def invalidateBlock (s : State) : State := { s with blkValid := false }

/-- A CMD write of w while BUSY = 0: w is issued (R26), and the engine begins on a legal command word; an ILLEGAL word
completes at once, in the same write (30_encoding R89, 60_exceptions R255). -/
def acceptCommand (w : Word) (s : State) : State :=
  match decode w with
  | .ok _ => issue w s
  | .error _ => illegalCommand (issue w s)

/-- A host write of v to register r that takes effect (R20, R24 .. R43, R48, R49). -/
def writeReg (r : Reg) (v : Word) (s : State) : State :=
  match r with
  | .id => s
  | .cap => s
  | .ctrl => { s with ie := v.getLsbD 0 }
  | .status => writeStatus v s
  | .cmd => acceptCommand v s
  | .addr => { s with addr := v }
  | .len => { s with len := v }
  | .cnt => { s with cnt := v }
  | .keylen => invalidateBlock { s with keylen := v.extractLsb' 0 6 }
  | .ivlen => invalidateBlock { s with ivlen := v.extractLsb' 0 5 }
  | .din => { s with din := v }
  | .dout => s
  | .sposLo => { s with spos := hi32 s.spos ++ v }
  | .sposHi => { s with spos := v ++ lo32 s.spos }
  | .blkidxLo => s
  | .blkidxHi => s
  | .erraddr => s
  | .blktag => s
  | .key j => invalidateBlock { s with key := s.key.setIfInBounds j v }
  | .iv j => invalidateBlock { s with iv := s.iv.setIfInBounds j v }
  | .div _ => s
  | .v0 k => { s with v0 := s.v0.setIfInBounds k v }
  | .v1 k => { s with v1 := s.v1.setIfInBounds k v }
  | .v2 k => { s with v2 := s.v2.setIfInBounds k v }
  | .ks _ => s
  | .reserved => s

/-- A host write of v to register r: while BUSY = 1 it is dropped and sets IGN, but for CTRL and STATUS (R290). -/
def writeRegister (r : Reg) (v : Word) (s : State) : State :=
  if busy s && !(r == .ctrl || r == .status) then { s with ign := true } else writeReg r v s

/-- A host read of the window; an access that is not an aligned 32-bit one is refused (R21). -/
def hostRead (off : BitVec 12) (width : Nat) (s : State) : Host.Outcome State Fault Refusal :=
  if accessWellFormed off width then .next (readRegister (regAt off) s) else .refused .notAlignedWordAccess

/-- A host write of the window; an access that is not an aligned 32-bit one is refused (R21). -/
def hostWrite (off : BitVec 12) (width : Nat) (v : Word) (s : State) : Host.Outcome State Fault Refusal :=
  if accessWellFormed off width then .next (writeRegister (regAt off) v s) else .refused .notAlignedWordAccess

/-! ### Other agents' accesses to data memory (20_memory R72) -/

/-- w is a PROCESS or SAPPLY command word, a command with a buffer (R60). -/
def isBufferCommand (w : Word) : Bool :=
  match decode w with
  | .ok _ => opField w == 0x05 || opField w == 0x07
  | .error _ => false

/-- a is a byte of the buffer of the PROCESS or SAPPLY in progress (R72). -/
def inBusyBuffer (a : Nat) (s : State) : Bool :=
  match s.inProgress with
  | some w => isBufferCommand w && s.addr.toNat ≤ a && a < s.addr.toNat + s.len.toNat
  | none => false

/-- A read of a data-memory byte by the host or another agent: a raced byte reads any value (R72). -/
def memLoad (a : Word) (s : State) : State :=
  { s with
    response := .byte
      (if inBusyBuffer a.toNat s then Config.freeByte s.freeIdx a.toNat else readByte s.mem a.toNat)
    freeIdx := s.freeIdx + 1 }

/-- A write of a data-memory byte by the host or another agent: a raced byte's final value is any value (R72, log 12). -/
def memStore (a : Word) (b : Byte) (s : State) : State :=
  { s with
    mem := writeByte s.mem a.toNat (if inBusyBuffer a.toNat s then Config.freeByte s.freeIdx a.toNat else b)
    freeIdx := s.freeIdx + 1 }

/-! ### Reset (70_reset R280 .. R282) -/

/-- Data memory after reset is asserted: each byte of the buffer of an abandoned PROCESS or SAPPLY is any value, every
other byte is kept (R281, R282). -/
def memAfterReset (s : State) : Memory :=
  match s.inProgress with
  | some w =>
    if isBufferCommand w then
      freeBytes (Config.freeByte s.freeIdx) (min s.len.toNat (2 ^ 32 - s.addr.toNat)) s.addr.toNat s.mem
    else s.mem
  | none => s.mem

/-- Reset asserted: the block takes the state of R280; data memory, the part's parameters and the model's own fields
are no part of the block (R282). -/
def assertReset (s : State) : State :=
  { State.reset with
    mem := memAfterReset s
    params := s.params
    agenda := s.agenda
    response := s.response
    freeIdx := s.freeIdx + 1 }

/-! ### Host programs (30_encoding R92, R93) -/

/-- `wr` at an offset of the window. -/
def wr (off : BitVec 12) (v : Word) : List Event := [.write off 4 v]
/-- `rd` at an offset of the window. -/
def rd (off : BitVec 12) : List Event := [.read off 4]
/-- RUN: `cmd`, then `wait`; the wait ends at the engine's completion. -/
def runCommand (i : Instr) : List Event := wr 0x010 (encode i) ++ [.engine]
/-- ACK. -/
def ackDone : List Event := wr 0x00C 0x2
/-- LOADKEY with the eight key words. -/
def loadKey (key : Vector Word 8) : List Event :=
  (List.range 8).flatMap (fun j => wr (BitVec.ofNat 12 (0x060 + 4 * j)) (word key j)) ++ wr 0x020 32
/-- LOADIV with the four IV words. -/
def loadIv (iv : Vector Word 4) : List Event :=
  (List.range 4).flatMap (fun j => wr (BitVec.ofNat 12 (0x080 + 4 * j)) (word iv j)) ++ wr 0x024 16
/-- SEEK. -/
def seek (p : DWord) : List Event := wr 0x030 (lo32 p) ++ wr 0x034 (hi32 p)
/-- BUF. -/
def buf (a n : Word) : List Event := wr 0x014 a ++ wr 0x018 n
/-- CIPHER.P with its tier. -/
def cipherBuffer (p : IntPrim) (t : TierReq) (a n : Word) : List Event := buf a n ++ runCommand (processOf t p)
/-- XORSTREAM.P with its tier. -/
def xorStream (p : IntPrim) (t : TierReq) (a n : Word) : List Event := buf a n ++ runCommand (sapplyOf t p)

end Sys2Proof.Machine
end

