-- ==== Sys2Proof/Machine/Step.lean ====
section
/-! DEFINITION. One step of the machine: the next event of the agenda, or, where none is left, the engine's turn. -/

namespace Sys2Proof.Machine

/-- The engine's turn: it decodes and executes the command in progress, to its completion (30_encoding R88; 20_memory
R73; 70_reset R300). Between commands the block is idle and its state persists (60_exceptions R263). An ILLEGAL word is
never found in progress: `acceptCommand` completed it as it was issued. The last arm only makes the turn total. -/
def engineTurn (s : State) : Host.Outcome State Fault Refusal :=
  match s.inProgress with
  | none => .next s
  | some w =>
    match decode w with
    | .ok i => exec i s
    | .error _ => .next (illegalCommand s)

/-- An event's effect; the event itself has been taken from the agenda. -/
def applyEvent (e : Event) (s : State) : Host.Outcome State Fault Refusal :=
  match e with
  | .read off width => hostRead off width s
  | .write off width v => hostWrite off width v s
  | .memLoad a => .next (memLoad a s)
  | .memStore a b => .next (memStore a b s)
  | .engine => engineTurn s
  | .reset => .next (assertReset s)

/-- One step (00_scope R4, 60_exceptions R261): the state changes by host register writes, by the engine and by reset,
and data memory by the engine and by other agents. The agenda says who is next (log 2). -/
def step (s : State) : Host.Outcome State Fault Refusal :=
  match s.agenda with
  | [] => engineTurn s
  | e :: es => applyEvent e { s with agenda := es }

/-- s with the command word w issued and nothing else to come: the very next step is the engine's, which decodes and
executes w (an ILLEGAL word has completed, R89). The block fetches nothing (00_scope R16): this is the host's write of w
to CMD (log 1). -/
def State.withFetchWord (s : State) (nbits w : Nat) : State :=
  { acceptCommand (BitVec.ofNat 32 (w % 2 ^ nbits)) s with agenda := [] }

end Sys2Proof.Machine
end

