-- ==== Sys2Proof/Machine/Assembler.lean ====
section
/-! DEFINITION. The assembler syntax of 30_encoding R92: `OP[.PRIM][.TIER]`, an omitted TIER being AUTO. It is host
notation; the block sees the word only. -/

namespace Sys2Proof.Machine

/-- The TIER suffix; AUTO is written by leaving it out (R92). -/
def tierSuffix : TierReq → String
  | .auto => ""
  | .scalar => ".S"
  | .w256 => ".W256"
  | .w512 => ".W512"

/-- The text of a command (R92). -/
def commandText : Instr → String
  | .nop => "NOP"
  | .mix => "MIX"
  | .ksgenItent t => "KSGEN.ITENT" ++ tierSuffix t
  | .ksgenIlog t => "KSGEN.ILOG" ++ tierSuffix t
  | .ksgenIsine t => "KSGEN.ISINE" ++ tierSuffix t
  | .ksgenIhenon t => "KSGEN.IHENON" ++ tierSuffix t
  | .ksgenIlorenz t => "KSGEN.ILORENZ" ++ tierSuffix t
  | .ksgenIchen t => "KSGEN.ICHEN" ++ tierSuffix t
  | .stepItent t => "STEP.ITENT" ++ tierSuffix t
  | .stepIlog t => "STEP.ILOG" ++ tierSuffix t
  | .stepIsine t => "STEP.ISINE" ++ tierSuffix t
  | .stepIhenon t => "STEP.IHENON" ++ tierSuffix t
  | .stepIlorenz t => "STEP.ILORENZ" ++ tierSuffix t
  | .stepIchen t => "STEP.ICHEN" ++ tierSuffix t
  | .stepFlog t => "STEP.FLOG" ++ tierSuffix t
  | .stepFtent t => "STEP.FTENT" ++ tierSuffix t
  | .stepFsine t => "STEP.FSINE" ++ tierSuffix t
  | .stepFhenon t => "STEP.FHENON" ++ tierSuffix t
  | .stepFlorenz t => "STEP.FLORENZ" ++ tierSuffix t
  | .stepFchen t => "STEP.FCHEN" ++ tierSuffix t
  | .deriveItent t => "DERIVE.ITENT" ++ tierSuffix t
  | .deriveIlog t => "DERIVE.ILOG" ++ tierSuffix t
  | .deriveIsine t => "DERIVE.ISINE" ++ tierSuffix t
  | .deriveIhenon t => "DERIVE.IHENON" ++ tierSuffix t
  | .deriveIlorenz t => "DERIVE.ILORENZ" ++ tierSuffix t
  | .deriveIchen t => "DERIVE.ICHEN" ++ tierSuffix t
  | .processItent t => "PROCESS.ITENT" ++ tierSuffix t
  | .processIlog t => "PROCESS.ILOG" ++ tierSuffix t
  | .processIsine t => "PROCESS.ISINE" ++ tierSuffix t
  | .processIhenon t => "PROCESS.IHENON" ++ tierSuffix t
  | .processIlorenz t => "PROCESS.ILORENZ" ++ tierSuffix t
  | .processIchen t => "PROCESS.ICHEN" ++ tierSuffix t
  | .ivder => "IVDER"
  | .sapplyItent t => "SAPPLY.ITENT" ++ tierSuffix t
  | .sapplyIlog t => "SAPPLY.ILOG" ++ tierSuffix t
  | .sapplyIsine t => "SAPPLY.ISINE" ++ tierSuffix t
  | .sapplyIhenon t => "SAPPLY.IHENON" ++ tierSuffix t
  | .sapplyIlorenz t => "SAPPLY.ILORENZ" ++ tierSuffix t
  | .sapplyIchen t => "SAPPLY.ICHEN" ++ tierSuffix t
  | .sinval => "SINVAL"

/-- The tier requests, in the order of their codes (R83). -/
def allTierReqs : List TierReq := [.auto, .scalar, .w256, .w512]
/-- The integer primitives, in the order of their codes (R86). -/
def allIntPrims : List IntPrim := [.itent, .ilog, .isine, .ihenon, .ilorenz, .ichen]
/-- The float primitives, in the order of their codes (R86). -/
def allFloatPrims : List FloatPrim := [.flog, .ftent, .fsine, .fhenon, .florenz, .fchen]

/-- Every command: the 148 of R91. -/
def allInstrs : List Instr :=
  [.nop, .mix, .ivder, .sinval]
    ++ allTierReqs.flatMap (fun t => allIntPrims.flatMap fun p =>
        [ksgenOf t p, stepIntOf t p, deriveOf t p, processOf t p, sapplyOf t p])
    ++ allTierReqs.flatMap (fun t => allFloatPrims.map (stepFloatOf t))

/-- word(TEXT) (R92); mnemonics are case-insensitive. None for a text that is no command. -/
def assemble (text : String) : Option Word :=
  (allInstrs.find? fun i => commandText i == text.map Char.toUpper).map encode

end Sys2Proof.Machine
end

