-- ==== Sys2Proof/Safety.lean ====
section
/-! DEFINITION. What counts as a safe run: the invariant of the block's state, and the host duties of 60_exceptions
R270 as preconditions of the host program. -/

namespace Sys2Proof.Machine

/-- A tier the part implements (40_primitives R100). -/
def implemented (p : Params) : Tier → Bool
  | .scalar => true
  | .w256 => p.hasW256
  | .w512 => p.hasW512

/-- The block cache holds what its tag says (10_state R45): BLKBUF is the block of KEY, IV and BLKIDX for the
primitive and the tier of BLKTAG, a tier that the part implements. -/
def CacheTrue (s : State) : Prop :=
  ∃ (p : IntPrim) (T : Tier), s.blktag = blockTag p T ∧ implemented s.params T = true ∧
    s.blkbuf = block p T s.key s.iv s.blkidx

/-- The invariant of the block: every clause is a rule of the spec, and every step keeps it. -/
structure Invariant (s : State) : Prop where
  /-- data memory is in canonical form (the model's own; 20_memory R60 for the addresses) -/
  memory : Memory.wf s.mem = true
  /-- BLKBUF has 4096 bytes (10_state R45, 00_scope R7) -/
  buffer : s.blkbuf.length = blockSize
  /-- while BLK_VALID = 1 the cache is true (10_state R45) -/
  cache : s.blkValid = true → CacheTrue s
  /-- a block index is below 2^52 (44_stream R220) -/
  index : s.blkidx.toNat < 2 ^ 52
  /-- BUSY = 1 implies DONE = 0 and ERR = 0 (10_state R26, 70_reset R291) -/
  issued : busy s = true → s.done = false ∧ s.err = .ok
  /-- the word in progress is a legal command word, for an illegal one completes as it is issued (30_encoding R89) -/
  legal : ∀ w, s.inProgress = some w → ∃ i, decode w = .ok i
  /-- the reserved error codes are never produced (60_exceptions R250) -/
  named : s.err ≠ .shapeMismatch ∧ s.err ≠ .invalidRange
  /-- TIER_USED names an implemented tier or none yet (10_state R25, 40_primitives R101) -/
  tier : ∀ T, s.tierUsed = some T → implemented s.params T = true

/-! ### The host's duties (60_exceptions R270)

Duties 5, 6, 8, 12 and 13 concern one event (`dutyKept`), duty 10 the events before a command (`seekKept`), duty 11 two
host programs (`pinnedAlike`). `dutiesKept` is the precondition of a whole host program. Duties 7 and 9 order the host's
stores and loads against the window by fences and cache maintenance of the host; an event of this model is an access as
it is performed, so a host program keeps them by what its list of events is (log 17). -/

/-- The duties that concern one event, by their number in R270: 5, no write but to CTRL and STATUS while BUSY = 1; 6, no
read of a result register while BUSY = 1 (a STATUS read is for BUSY, DONE, ERR and IGN); 8, no access to the buffer of
the command in progress; 12, no PROCESS or SAPPLY on a buffer with a byte that MemAdmits rejects; 13, aligned 32-bit
accesses only. -/
def dutyKept (e : Event) (s : State) : Bool :=
  match e with
  | .read off width => accessWellFormed off width && !(busy s && resultReg (regAt off))
  | .write off width v =>
    accessWellFormed off width && (!busy s || regAt off == .ctrl || regAt off == .status) &&
      !(regAt off == .cmd && isBufferCommand v && (firstRejected s.params s.len.toNat s.addr.toNat).isSome)
  | .memLoad a => !inBusyBuffer a.toNat s
  | .memStore a _ => !inBusyBuffer a.toNat s
  | .engine => true
  | .reset => true

/-- w is a SAPPLY or IVDER command word, a command that reads SPOS (44_stream R227, R234). -/
def usesPosition (w : Word) : Bool :=
  match decode w with
  | .ok _ => opField w == 0x06 || opField w == 0x07
  | .error _ => false

/-- The halves of SPOS that the host has written since the last SAPPLY or IVDER, or since reset (70_reset R285). -/
structure Seek where
  lo : Bool
  hi : Bool
deriving DecidableEq, Repr

/-- No half of SPOS has been written. -/
def Seek.none : Seek := ⟨false, false⟩

/-- The halves of SPOS written, after one more event. -/
def Seek.after (e : Event) (s : State) (q : Seek) : Seek :=
  match e with
  | .write off _ v =>
    if busy s then q
    else
      { lo := (q.lo || regAt off == .sposLo) && !(regAt off == .cmd && usesPosition v)
        hi := (q.hi || regAt off == .sposHi) && !(regAt off == .cmd && usesPosition v) }
  | .read _ _ => q
  | .memLoad _ => q
  | .memStore _ _ => q
  | .engine => q
  | .reset => .none

/-- Duty 10 of R270: a SAPPLY or IVDER that is issued finds both halves of SPOS written, or neither, where it goes on at
the position that it finds (R285: both, with no SAPPLY or IVDER between the two writes). -/
def seekKept (e : Event) (s : State) (q : Seek) : Bool :=
  match e with
  | .write off _ v => busy s || !(regAt off == .cmd && usesPosition v) || q.lo == q.hi
  | .read _ _ => true
  | .memLoad _ => true
  | .memStore _ _ => true
  | .engine => true
  | .reset => true

/-- The events keep every duty of R270 that one program can break, from state s on, as the machine performs them. -/
def dutiesKept : List Event → Seek → State → Bool
  | [], _, _ => true
  | e :: es, q, s =>
    dutyKept e s && seekKept e s q &&
      match applyEvent e { s with agenda := es } with
      | .next t => dutiesKept es (Seek.after e s q) t
      | .fault _ => false
      | .refused _ => false

/-- The precondition of a host program: the events to come keep the duties of R270. -/
def hostKeepsDuties (s : State) : Bool := dutiesKept s.agenda .none s

/-- The TIER fields of the PROCESS and SAPPLY words that a host program writes to CMD. -/
def cipherTiers : List Event → List (BitVec 2)
  | [] => []
  | .write off _ v :: es =>
    if regAt off == .cmd && isBufferCommand v then tierField v :: cipherTiers es else cipherTiers es
  | .read _ _ :: es => cipherTiers es
  | .memLoad _ :: es => cipherTiers es
  | .memStore _ _ :: es => cipherTiers es
  | .engine :: es => cipherTiers es
  | .reset :: es => cipherTiers es

/-- Duty 11 of R270, of an encrypting and a decrypting program that must agree across blocks: all their PROCESS and
SAPPLY words name the same explicit tier (43_cipher R207). -/
def pinnedAlike (encrypting decrypting : List Event) : Bool :=
  (cipherTiers encrypting).all fun t => t != 0 && (cipherTiers decrypting).all fun u => u == t

/-- An outcome that goes on. -/
def goesOn : Host.Outcome State Fault Refusal → Bool
  | .next _ => true
  | .fault _ => false
  | .refused _ => false

/-! ### What a host write can change (10_state R20, R21, R48) -/

/-- The bits of a register that a host write replaces: none of a read-only or reserved one, none of a reserved bit (R20,
R21, R24, R30, R31). CMD and the W1C bits of STATUS are not held and not replaced: theirs is `issue` and `writeStatus`. -/
def writableBits : Reg → Word
  | .id => 0
  | .cap => 0
  | .ctrl => 0x1
  | .status => 0
  | .cmd => 0
  | .addr => 0xFFFFFFFF
  | .len => 0xFFFFFFFF
  | .cnt => 0xFFFFFFFF
  | .keylen => 0x3F
  | .ivlen => 0x1F
  | .din => 0xFFFFFFFF
  | .dout => 0
  | .sposLo => 0xFFFFFFFF
  | .sposHi => 0xFFFFFFFF
  | .blkidxLo => 0
  | .blkidxHi => 0
  | .erraddr => 0
  | .blktag => 0
  | .key _ => 0xFFFFFFFF
  | .iv _ => 0xFFFFFFFF
  | .div _ => 0
  | .v0 _ => 0xFFFFFFFF
  | .v1 _ => 0xFFFFFFFF
  | .v2 _ => 0xFFFFFFFF
  | .ks _ => 0
  | .reserved => 0

/-- An offset of KEYLEN, IVLEN, KEY0 .. KEY7 or IV0 .. IV3: a write there invalidates the block cache (R48). -/
def keyOrIvOffset (off : BitVec 12) : Bool :=
  off == 0x020 || off == 0x024 || (0x060 ≤ off.toNat && off.toNat < 0x090)

/-! ### What a command checks (60_exceptions R250, R251) -/

/-- The checks that the commands make, in the order of R251. -/
inductive Check where
  | keyLength
  | tier
  | ivAtMost16
  | ivIs16
  | bufferRange
  | streamRange
  | admitted
deriving DecidableEq, Repr

/-- The checks a command has, in the order in which it makes them (R250, R251), by its OP (30_encoding R85). -/
def commandChecks (i : Instr) : List Check :=
  match (opField (encode i)).toNat with
  | 0x02 => [.tier]
  | 0x03 => [.tier]
  | 0x04 => [.keyLength, .tier, .ivAtMost16]
  | 0x05 => [.keyLength, .tier, .ivAtMost16, .bufferRange, .admitted]
  | 0x07 => [.keyLength, .tier, .ivIs16, .bufferRange, .streamRange, .admitted]
  | _ => []

/-- A TIER field that names a tier the part lacks (40_primitives R101). -/
def tierMissing (p : Params) (t : BitVec 2) : Bool := (t == 2 && !p.hasW256) || (t == 3 && !p.hasW512)

/-- A check of command i fails (R250). -/
def checkFails (i : Instr) (s : State) : Check → Bool
  | .keyLength => s.keylen.toNat < 32
  | .tier => tierMissing s.params (tierField (encode i))
  | .ivAtMost16 => 16 < s.ivlen.toNat
  | .ivIs16 => s.ivlen.toNat ≠ 16
  | .bufferRange => 2 ^ 32 < s.addr.toNat + s.len.toNat
  | .streamRange => 2 ^ 64 < s.spos.toNat + s.len.toNat
  | .admitted => decide (∃ k < s.len.toNat, memAdmits s.params (s.addr.toNat + k) = false)

/-- The error that a failed check raises (R250). -/
def checkError : Check → ErrCode
  | .keyLength => .invalidKey
  | .tier => .invalidArgument
  | .ivAtMost16 => .invalidArgument
  | .ivIs16 => .invalidArgument
  | .bufferRange => .invalidArgument
  | .streamRange => .invalidArgument
  | .admitted => .accessFault

/-- The one error a command reports: that of the first check that fails (R251). -/
def firstError (i : Instr) (s : State) : ErrCode :=
  match (commandChecks i).find? (checkFails i s) with
  | some c => checkError c
  | none => .ok

/-! ### When a command succeeds -/

/-- The key, tier and IV checks of DERIVE and PROCESS hold, and the tier is T (43_cipher R193, R200). -/
structure CipherReady (t : TierReq) (T : Tier) (s : State) : Prop where
  key : 32 ≤ s.keylen.toNat
  tier : resolve s.params t = some T
  iv : s.ivlen.toNat ≤ 16

/-- The range check and the pre-check of a buffer hold (20_memory R66, R67). -/
structure BufferReady (s : State) : Prop where
  range : s.addr.toNat + s.len.toNat ≤ 2 ^ 32
  admitted : ∀ k < s.len.toNat, memAdmits s.params (s.addr.toNat + k) = true

/-- All the checks of SAPPLY hold, and the tier is T (44_stream R227). -/
structure StreamReady (t : TierReq) (T : Tier) (s : State) : Prop where
  key : 32 ≤ s.keylen.toNat
  tier : resolve s.params t = some T
  iv : s.ivlen.toNat = 16
  buffer : BufferReady s
  stream : s.spos.toNat + s.len.toNat ≤ 2 ^ 64

end Sys2Proof.Machine
end

