-- ==== Sys2Proof/Certificates/Slice0/Obligations.lean ====
section
/-! DEFINITION. The statements for the provers, from the numbered rules of spec/. A statement about a command gives the
whole next state by a record update: every field it does not name is unchanged, and that is its frame. -/

open Sys2Proof Sys2Proof.Machine

/-! ### Encoding (30_encoding) -/

/-- R80, R85 .. R88: the decoder reads a command from a word exactly when the word is the command's encoding, for every
command and every TIER value. So decoding inverts encoding, and every legal word has one reading and one spelling. -/
def Obligations.DecodeInvertsEncode : Prop :=
  ∀ (w : Word) (i : Instr), decode w = .ok i ↔ encode i = w

/-- R89: the illegal words are exactly the five kinds of the rule's list; and issuing one while BUSY = 0 completes at once,
in the CMD write itself, with ILLEGAL_CMD, and changes no state but STATUS (ERR and DONE; BUSY is 0 before and after). -/
def Obligations.IllegalCommandWords : Prop :=
  (∀ w : Word, (∃ e, decode w = .error e) ↔
    let n := w.toNat
    let rsv := n / 2 ^ 14
    let tier := n / 2 ^ 12 % 4
    let prim := n / 2 ^ 8 % 16
    let op := n % 2 ^ 8
    rsv ≠ 0 ∨ 0x09 ≤ op ∨
      (op ∈ [0x00, 0x01, 0x06, 0x08] ∧ (prim ≠ 0 ∨ tier ≠ 0)) ∨
      (op ∈ [0x02, 0x04, 0x05, 0x07] ∧ 6 ≤ prim) ∨
      (op = 0x03 ∧ prim ∈ [6, 7, 14, 15])) ∧
  ∀ (s : State) (c : Word) (e : Illegal) (es : List Event), busy s = false → decode c = .error e →
    step { s with agenda := .write 0x010 4 c :: es } =
      .next { s with agenda := es, err := .illegalCmd, done := true, inProgress := none }

/-- R91: there are 148 legal command words. -/
def Obligations.LegalWordsAre148 : Prop :=
  {w : Word | ∃ i, decode w = .ok i}.ncard = 148

/-- R92: the words of the rule's table decode to the commands of its texts. -/
def Obligations.DecodesTheTableOfWords : Prop :=
  decode 0x00000000 = .ok .nop ∧ decode 0x00000001 = .ok .mix ∧
  decode 0x00002302 = .ok (.ksgenIhenon .w256) ∧ decode 0x00003003 = .ok (.stepItent .w512) ∧
  decode 0x00001C03 = .ok (.stepFlorenz .scalar) ∧ decode 0x00000404 = .ok (.deriveIlorenz .auto) ∧
  decode 0x00001005 = .ok (.processItent .scalar) ∧ decode 0x00000006 = .ok .ivder ∧
  decode 0x00003407 = .ok (.sapplyIlorenz .w512) ∧ decode 0x00000008 = .ok .sinval

/-! ### Steps: issue, the engine's turn, completion -/

/-- R16, R88, R263: at the engine's turn the step is exec of the command that the word in progress decodes to, at that state;
the turn is the head of the agenda, which the step takes off, or an empty agenda. `withFetchWord` places a word so.
With nothing in progress and nothing to come the block is idle and the step answers the same state. The agenda and the
idle step are the model's choice (log 1, log 2, log 14). -/
def Obligations.StepRunsTheDecodedCommand : Prop :=
  (∀ (s : State) (w : Word) (i : Instr), s.inProgress = some w → decode w = .ok i →
    (s.agenda = [] → step s = exec i s) ∧
    (∀ es, s.agenda = .engine :: es → step s = exec i { s with agenda := es })) ∧
  (∀ (s : State) (w : Word) (i : Instr), decode w = .ok i →
    step (s.withFetchWord 32 w.toNat) = exec i (s.withFetchWord 32 w.toNat)) ∧
  (∀ s : State, busy s = false → s.agenda = [] → step s = .next s)

/-- R26, R89, R255: a host write of a legal word c to CMD while BUSY = 0 issues c, and at its turn the engine executes it; an
ILLEGAL word completes at once, in the write; a write while BUSY = 1 is dropped and sets IGN; a read of CMD returns 0. That
the write and the engine's turn are two events is the model's choice (log 2, log 4). -/
def Obligations.IssueTakesTheCommandWord : Prop :=
  ∀ (s : State) (c : Word) (es : List Event),
    (∀ i, busy s = false → decode c = .ok i →
      step { s with agenda := .write 0x010 4 c :: es } =
        .next { s with agenda := es, inProgress := some c, done := false, err := .ok } ∧
      step { s with agenda := .engine :: es, inProgress := some c, done := false, err := .ok } =
        exec i { s with agenda := es, inProgress := some c, done := false, err := .ok }) ∧
    (∀ e, busy s = false → decode c = .error e →
      step { s with agenda := .write 0x010 4 c :: es } =
        .next { s with agenda := es, inProgress := none, done := true, err := .illegalCmd }) ∧
    (busy s = true →
      step { s with agenda := .write 0x010 4 c :: es } = .next { s with agenda := es, ign := true }) ∧
    step { s with agenda := .read 0x010 4 :: es } =
      .next { s with agenda := es, response := .word 0, freeIdx := s.freeIdx + 1 }

/-- R255, R258 .. R260: every command completes, in the state of its turn: DONE = 1, BUSY = 0, the interrupt output is
CTRL.IE; and no command writes a register that R291 lists as written by none, nor IGN, nor the events to come. -/
def Obligations.EveryCommandCompletes : Prop :=
  ∀ (i : Instr) (s : State), ∃ t, exec i s = .next t ∧ t.done = true ∧ busy t = false ∧ irq t = s.ie ∧
    t.ie = s.ie ∧ t.ign = s.ign ∧ t.addr = s.addr ∧ t.len = s.len ∧ t.cnt = s.cnt ∧ t.keylen = s.keylen ∧
    t.ivlen = s.ivlen ∧ t.din = s.din ∧ t.key = s.key ∧ t.iv = s.iv ∧ t.params = s.params ∧ t.agenda = s.agenda ∧
    t.response = s.response

/-- R21, R122, R252, R270: a step has a next state, except that an access to the window that is not an aligned 32-bit one is
refused, in whatever state. An event that keeps the duties of R270 goes on and drops no write: it leaves IGN 0 where it
was 0. That the idle step goes on (log 14), and another agent's access to an address that MemAdmits rejects (log 18), are
the model's choice. -/
def Obligations.OnlyMalformedAccessesAreRefused : Prop :=
  (∀ s : State, (∀ off width es, s.agenda = .read off width :: es → width = 4 ∧ off.toNat % 4 = 0) →
    (∀ off width v es, s.agenda = .write off width v :: es → width = 4 ∧ off.toNat % 4 = 0) →
    ∃ t, step s = .next t) ∧
  (∀ (s : State) (off : BitVec 12) (width : Nat) (v : Word) (es : List Event), ¬ (width = 4 ∧ off.toNat % 4 = 0) →
    step { s with agenda := .read off width :: es } = .refused .notAlignedWordAccess ∧
    step { s with agenda := .write off width v :: es } = .refused .notAlignedWordAccess) ∧
  (∀ (s : State) (e : Event) (es : List Event), dutyKept e s = true →
    ∃ t, step { s with agenda := e :: es } = .next t ∧ (s.ign = false → t.ign = false))

/-! ### Errors (60_exceptions) -/

/-- R250, R251: every command reports the error of the first check that fails, in the order of R251, and OK when none
does. The reserved codes are never raised. -/
def Obligations.FirstFailedCheckIsReported : Prop :=
  ∀ (i : Instr) (s : State), ∃ t, exec i s = .next t ∧ t.err = firstError i s

/-- R256: every error is precise: the state after it is the state before, with STATUS (and, for ACCESS_FAULT, ERRADDR)
changed. -/
def Obligations.ErrorsArePrecise : Prop :=
  ∀ (i : Instr) (s t : State), exec i s = .next t → t.err ≠ .ok →
    t = { s with
      err := t.err
      done := true
      inProgress := none
      erraddr := if t.err = .accessFault then t.erraddr else s.erraddr }

/-- R66: a PROCESS or SAPPLY that comes to its pre-check and finds a buffer byte that MemAdmits rejects raises
ACCESS_FAULT with the lowest such address in ERRADDR, and changes nothing else. -/
def Obligations.LowestRejectedAddressIsRecorded : Prop :=
  ∀ (t : TierReq) (T : Tier) (p : IntPrim) (s : State) (j : Nat),
    32 ≤ s.keylen.toNat → resolve s.params t = some T → s.addr.toNat + s.len.toNat ≤ 2 ^ 32 → j < s.len.toNat →
    memAdmits s.params (s.addr.toNat + j) = false → (∀ k < j, memAdmits s.params (s.addr.toNat + k) = true) →
    let faulted : State :=
      { s with
        err := .accessFault
        done := true
        inProgress := none
        erraddr := s.addr + BitVec.ofNat 32 j }
    (s.ivlen.toNat ≤ 16 → exec (processOf t p) s = .next faulted) ∧
    (s.ivlen.toNat = 16 → s.spos.toNat + s.len.toNat ≤ 2 ^ 64 → exec (sapplyOf t p) s = .next faulted)

/-- R67: a buffer that passes the end of data memory is INVALID_ARGUMENT, for PROCESS and for SAPPLY: no wrap. -/
def Obligations.BufferNeverWraps : Prop :=
  ∀ (t : TierReq) (T : Tier) (p : IntPrim) (s : State),
    32 ≤ s.keylen.toNat → resolve s.params t = some T → 2 ^ 32 < s.addr.toNat + s.len.toNat →
    let refused : State := { s with err := .invalidArgument, done := true, inProgress := none }
    (s.ivlen.toNat ≤ 16 → exec (processOf t p) s = .next refused) ∧
    (s.ivlen.toNat = 16 → exec (sapplyOf t p) s = .next refused)

/-- R100, R101: the lane counts and strides of the three tiers; what each TIER value resolves to, with which of the two
options, and that an explicit one resolves alike on every part that has it (R207); and a command that names a tier the part
lacks raises INVALID_ARGUMENT and changes nothing: STEP and KSGEN at once, DERIVE, PROCESS and SAPPLY once the key is
accepted (R251). -/
def Obligations.TierResolution : Prop :=
  (lanesU .scalar = 1 ∧ lanesU .w256 = 8 ∧ lanesU .w512 = 16 ∧ lanesF .scalar = 1 ∧ lanesF .w256 = 4 ∧ lanesF .w512 = 8 ∧
    stride .scalar = 4 ∧ stride .w256 = 32 ∧ stride .w512 = 64) ∧
  (∀ (p q : Params) (t : TierReq) (T U : Tier), t ≠ .auto → resolve p t = some T → resolve q t = some U → T = U) ∧
  (∀ p : Params,
    resolve p .auto = some (if p.hasW512 then .w512 else if p.hasW256 then .w256 else .scalar) ∧
    resolve p .scalar = some .scalar ∧
    (p.hasW256 = true → resolve p .w256 = some .w256) ∧ (p.hasW256 = false → resolve p .w256 = none) ∧
    (p.hasW512 = true → resolve p .w512 = some .w512) ∧ (p.hasW512 = false → resolve p .w512 = none)) ∧
  ∀ (t : TierReq) (s : State), resolve s.params t = none →
    let refused : State := { s with err := .invalidArgument, done := true, inProgress := none }
    (∀ p : IntPrim, ∀ i ∈ [ksgenOf t p, stepIntOf t p], exec i s = .next refused) ∧
    (∀ p : FloatPrim, exec (stepFloatOf t p) s = .next refused) ∧
    (32 ≤ s.keylen.toNat → ∀ p : IntPrim, ∀ i ∈ [deriveOf t p, processOf t p, sapplyOf t p], exec i s = .next refused)

/-! ### The register window (10_state, 70_reset) -/

/-- R20, R21, R49: while BUSY = 0 a host write to any register but CMD and STATUS replaces the writable bits of that
register, and no other register reads otherwise than before, but that BLK_VALID falls with a write to a key or IV
register (R48). Read-only and reserved offsets ignore it. Nothing outside the window changes: not data memory, not BLKBUF,
not the parameters, nor a field of the model's own but the agenda, from which the event is taken. -/
def Obligations.WriteChangesOneRegister : Prop :=
  ∀ (s : State) (off : BitVec 12) (v : Word) (es : List Event), busy s = false → off.toNat % 4 = 0 →
    off ≠ 0x00C → off ≠ 0x010 →
    ∃ t, step { s with agenda := .write off 4 v :: es } = .next t ∧
      (∀ off' : BitVec 12, off'.toNat % 4 = 0 →
        readReg (regAt off') t =
          if off' = off then
            (v &&& writableBits (regAt off)) ||| (readReg (regAt off) s &&& ~~~writableBits (regAt off))
          else if off' = 0x00C ∧ keyOrIvOffset off = true then readReg (regAt off') s &&& 0xFFFEFFFF
          else readReg (regAt off') s) ∧
      t.inProgress = none ∧ t.mem = s.mem ∧ t.blkbuf = s.blkbuf ∧ t.params = s.params ∧ t.agenda = es ∧
      t.response = s.response ∧ t.freeIdx = s.freeIdx

/-- R48: while BUSY = 0 a write to KEY0 .. KEY7, KEYLEN, IV0 .. IV3 or IVLEN clears BLK_VALID, whatever the value; no
other register write changes the block cache, a seek among them. -/
def Obligations.KeyAndIvWritesInvalidate : Prop :=
  ∀ (s : State) (off : BitVec 12) (v : Word) (es : List Event), busy s = false → off.toNat % 4 = 0 →
    ∃ t, step { s with agenda := .write off 4 v :: es } = .next t ∧
      t.blkValid = (if keyOrIvOffset off then false else s.blkValid) ∧
      t.blkbuf = s.blkbuf ∧ t.blkidx = s.blkidx ∧ t.blktag = s.blktag

/-- R290: while BUSY = 1 a write to any offset but CTRL and STATUS is dropped and sets IGN; writes to CTRL and STATUS
take effect. -/
def Obligations.WritesWhileBusyAreDropped : Prop :=
  ∀ (s : State) (off : BitVec 12) (v : Word) (es : List Event), busy s = true → off.toNat % 4 = 0 →
    step { s with agenda := .write off 4 v :: es } =
      if off = 0x008 then .next { s with agenda := es, ie := v.getLsbD 0 }
      else if off = 0x00C then
        .next { s with agenda := es, done := s.done && !v.getLsbD 1, ign := s.ign && !v.getLsbD 2 }
      else .next { s with agenda := es, ign := true }

/-- R291: while BUSY = 1 STATUS reads BUSY = 1, DONE = 0, ERR = 0, the true IGN and 0 in its reserved bits; a register no
command writes reads its value; one that a command can write reads the free value (log 8, log 11), BLKTAG only in its bits
5:0, for its reserved bits read 0 (R21, R37). No read changes the block. -/
def Obligations.ReadsWhileBusy : Prop :=
  ∀ (s : State) (off : BitVec 12) (es : List Event), busy s = true → off.toNat % 4 = 0 →
    ∃ x, step { s with agenda := .read off 4 :: es } =
        .next { s with agenda := es, response := .word x, freeIdx := s.freeIdx + 1 } ∧
      (off = 0x00C → x &&& 0xFFFEFCFF = 1#32 ||| (if s.ign then 4 else 0)) ∧
      (off = 0x044 → x.toNat = (Config.freeWord s.freeIdx).toNat % 64) ∧
      (off.toNat ∈ [0x02C, 0x030, 0x034, 0x038, 0x03C, 0x040] ∨ (0x090 ≤ off.toNat ∧ off.toNat < 0x0A0) ∨
        (0x100 ≤ off.toNat ∧ off.toNat < 0x200) → x = Config.freeWord s.freeIdx) ∧
      (off.toNat ∈ [0x000, 0x004, 0x008, 0x010, 0x014, 0x018, 0x01C, 0x020, 0x024, 0x028] ∨
        (0x048 ≤ off.toNat ∧ off.toNat < 0x090) ∨ (0x0A0 ≤ off.toNat ∧ off.toNat < 0x100) ∨ 0x200 ≤ off.toNat →
        x = readReg (regAt off) s)

/-- R20, R21, R49: while BUSY = 0 a host read returns the register's value and has no side effect on the block; and which
register stands at each offset of R20's table, with its width (STATUS, at 0x00C, is `StatusIsWriteOneToClear`). -/
def Obligations.IdleReadReturnsTheRegister : Prop :=
  (∀ (s : State) (off : BitVec 12) (es : List Event), busy s = false → off.toNat % 4 = 0 →
    step { s with agenda := .read off 4 :: es } =
      .next { s with agenda := es, response := .word (readReg (regAt off) s), freeIdx := s.freeIdx + 1 }) ∧
  ∀ s : State,
    let reads := fun off : Nat => readReg (regAt (BitVec.ofNat 12 off)) s
    reads 0x000 = 0x43484537 ∧ (reads 0x004).toNat = 1 + 2 * s.params.hasW256.toNat + 4 * s.params.hasW512.toNat ∧
    (reads 0x008).toNat = s.ie.toNat ∧ reads 0x010 = 0 ∧
    reads 0x014 = s.addr ∧ reads 0x018 = s.len ∧ reads 0x01C = s.cnt ∧
    (reads 0x020).toNat = s.keylen.toNat ∧ (reads 0x024).toNat = s.ivlen.toNat ∧
    reads 0x028 = s.din ∧ reads 0x02C = s.dout ∧
    (reads 0x030).toNat = s.spos.toNat % 2 ^ 32 ∧ (reads 0x034).toNat = s.spos.toNat / 2 ^ 32 ∧
    (reads 0x038).toNat = s.blkidx.toNat % 2 ^ 32 ∧ (reads 0x03C).toNat = s.blkidx.toNat / 2 ^ 32 ∧
    reads 0x040 = s.erraddr ∧ (reads 0x044).toNat = s.blktag.toNat ∧
    (∀ j < 8, s.key[j]? = some (reads (0x060 + 4 * j))) ∧
    (∀ j < 4, s.iv[j]? = some (reads (0x080 + 4 * j)) ∧ s.div[j]? = some (reads (0x090 + 4 * j))) ∧
    (∀ k < 16, s.v0[k]? = some (reads (0x100 + 4 * k)) ∧ s.v1[k]? = some (reads (0x140 + 4 * k)) ∧
      s.v2[k]? = some (reads (0x180 + 4 * k)) ∧ s.ks[k]? = some (reads (0x1C0 + 4 * k))) ∧
    (∀ off < 0x1000, (0x048 ≤ off ∧ off < 0x060) ∨ (0x0A0 ≤ off ∧ off < 0x100) ∨ 0x200 ≤ off → reads off = 0)

/-- R25, R250, R258: a write to STATUS clears DONE where bit 1 is 1 and IGN where bit 2 is 1, in any state; it changes
nothing else. The STATUS word has each field at its place, ERR and TIER_USED by the numbers of their tables. -/
def Obligations.StatusIsWriteOneToClear : Prop :=
  ∀ (s : State) (v : Word) (es : List Event),
    step { s with agenda := .write 0x00C 4 v :: es } =
      .next { s with
        agenda := es
        done := if v.toNat / 2 % 2 = 1 then false else s.done
        ign := if v.toNat / 4 % 2 = 1 then false else s.ign } ∧
    let err : Nat := match s.err with
      | .ok => 0
      | .illegalCmd => 1
      | .invalidKey => 2
      | .invalidArgument => 3
      | .accessFault => 4
      | .shapeMismatch => 5
      | .invalidRange => 6
    let tier : Nat := match s.tierUsed with
      | none => 0
      | some .scalar => 1
      | some .w256 => 2
      | some .w512 => 3
    (readReg (regAt 0x00C) s).toNat =
      (if busy s then 1 else 0) + (if s.done then 2 else 0) + (if s.ign then 4 else 0) + 16 * err + 256 * tier +
        (if s.blkValid then 65536 else 0)

/-- R260: IRQ is DONE and IE. A completion raises it when IE is set; setting IE while DONE = 1 raises it at once; writing
1 to STATUS.DONE, issuing a command and clearing IE (which leaves DONE) lower it. The write of an ILLEGAL word to CMD is its
issue and its completion at once (R89), so IRQ is IE after it. -/
def Obligations.InterruptFollowsDoneAndEnable : Prop :=
  ∀ (s : State) (i : Instr) (c v : Word),
    irq s = (s.done && s.ie) ∧
    (∃ t, exec i s = .next t ∧ irq t = s.ie) ∧
    irq (writeRegister .ctrl v s) = (s.done && v.getLsbD 0) ∧
    (writeRegister .ctrl v s).done = s.done ∧
    (v.getLsbD 1 = true → irq (writeRegister .status v s) = false) ∧
    (∀ j, busy s = false → decode c = .ok j → irq (writeRegister .cmd c s) = false) ∧
    (∀ e, busy s = false → decode c = .error e → irq (writeRegister .cmd c s) = s.ie)

/-! ### Reset (70_reset) -/

/-- R280: in the state after reset every register reads its reset value, the cache is invalid, no command is in progress,
IRQ is low, and every key-using command raises INVALID_KEY. This is `State.reset`, and the state after the reset event in
any state. -/
def Obligations.ResetClearsEveryRegister : Prop :=
  (∀ (s : State) (es : List Event), ∃ t, step { s with agenda := .reset :: es } = .next t) ∧
  ∀ t : State, (t = State.reset ∨ ∃ (s : State) (es : List Event), step { s with agenda := .reset :: es } = .next t) →
    (∀ off : BitVec 12, off.toNat % 4 = 0 →
      (readReg (regAt off) t).toNat =
        if off = 0x000 then 0x43484537
        else if off = 0x004 then 1 + 2 * t.params.hasW256.toNat + 4 * t.params.hasW512.toNat
        else 0) ∧
    t.blkValid = false ∧ busy t = false ∧ irq t = false ∧
    (∀ (q : TierReq) (p : IntPrim), ∀ i ∈ [deriveOf q p, processOf q p, sapplyOf q p],
      exec i t = .next { t with err := .invalidKey, done := true, inProgress := none })

/-- R281, R282: reset keeps the parameters and every byte of data memory, but that each byte of the buffer of an abandoned
PROCESS or SAPPLY becomes a free value (log 8, log 13). -/
def Obligations.ResetKeepsDataMemory : Prop :=
  ∀ (s t : State) (es : List Event), Memory.wf s.mem = true → step { s with agenda := .reset :: es } = .next t →
    t.params = s.params ∧ Memory.wf t.mem = true ∧
    ∀ a < 2 ^ 32, readByte t.mem a =
      if inBusyBuffer a s then Config.freeByte s.freeIdx a else readByte s.mem a

/-! ### Data memory (20_memory) -/

/-- R72: for a byte of the buffer in progress, ADDR .. ADDR + LEN − 1 of a legal PROCESS or SAPPLY word, another agent's read
returns, and its write makes the byte, a free value (log 8, log 12). Elsewhere its read returns the byte and its write writes
it, and no other byte. That this is so at every address, whatever MemAdmits says of the block's own port there, is the
model's choice (log 18). -/
def Obligations.RacedBufferBytesAreFree : Prop :=
  ∀ (s : State) (a : Word) (b : Byte) (es : List Event), Memory.wf s.mem = true →
    step { s with agenda := .memLoad a :: es } =
      .next { s with
        agenda := es
        freeIdx := s.freeIdx + 1
        response := .byte
          (if inBusyBuffer a.toNat s then Config.freeByte s.freeIdx a.toNat else readByte s.mem a.toNat) } ∧
    ∃ M, step { s with agenda := .memStore a b :: es } =
        .next { s with agenda := es, freeIdx := s.freeIdx + 1, mem := M } ∧
      (∀ c, readByte M c =
        if c = a.toNat then (if inBusyBuffer c s then Config.freeByte s.freeIdx c else b) else readByte s.mem c) ∧
      (inBusyBuffer a.toNat s = true ↔
        (∃ t p, s.inProgress = some (encode (processOf t p)) ∨ s.inProgress = some (encode (sapplyOf t p))) ∧
          s.addr.toNat ≤ a.toNat ∧ a.toNat < s.addr.toNat + s.len.toNat)

/-- R60: only PROCESS and SAPPLY access data memory, and only the bytes ADDR .. ADDR + LEN − 1; memory keeps its form. -/
def Obligations.OnlyTheBufferChanges : Prop :=
  ∀ (i : Instr) (s t : State), Memory.wf s.mem = true → exec i s = .next t →
    Memory.wf t.mem = true ∧
    ((∀ q p, i ≠ processOf q p ∧ i ≠ sapplyOf q p) → t.mem = s.mem) ∧
    (∀ a, ¬ (s.addr.toNat ≤ a ∧ a < s.addr.toNat + s.len.toNat) → readByte t.mem a = readByte s.mem a)

/-- 10_state section 9: what each command leaves alone: DOUT is MIX's, KS is KSGEN's, V0 .. V2 are STEP's and DERIVE's,
DIV is IVDER's and SAPPLY's, SPOS and the cache's contents are SAPPLY's, BLK_VALID is SAPPLY's and SINVAL's, memory and
ERRADDR are PROCESS's and SAPPLY's, TIER_USED is every command's that takes a tier. -/
def Obligations.CommandWritesOnlyItsState : Prop :=
  ∀ (i : Instr) (s t : State), exec i s = .next t →
    let op := (opField (encode i)).toNat
    (op ≠ 1 → t.dout = s.dout) ∧ (op ≠ 2 → t.ks = s.ks) ∧
    (op ≠ 3 → op ≠ 4 → t.v0 = s.v0 ∧ t.v1 = s.v1 ∧ t.v2 = s.v2) ∧
    (op ≠ 6 → op ≠ 7 → t.div = s.div) ∧
    (op ≠ 7 → t.spos = s.spos ∧ t.blkbuf = s.blkbuf ∧ t.blkidx = s.blkidx ∧ t.blktag = s.blktag) ∧
    (op ≠ 7 → op ≠ 8 → t.blkValid = s.blkValid) ∧
    (op ≠ 5 → op ≠ 7 → t.mem = s.mem ∧ t.erraddr = s.erraddr) ∧
    (op ∈ [0, 1, 6, 8] → t.tierUsed = s.tierUsed)

/-! ### The primitives (40_primitives) and the mixer (42_mixer) -/

/-- R104: ITENT in whole numbers, its symmetry, that it is two-to-one, that every result is odd, and its examples. -/
def Obligations.TentArithmetic : Prop :=
  (∀ x : Word, (itent x).toNat =
    ((if x.toNat < 2 ^ 31 then 2 * x.toNat else 2 * (2 ^ 32 - 1 - x.toNat)) + 0x9E3779B9) % 2 ^ 32) ∧
  (∀ x : Word, (itent x).toNat % 2 = 1 ∧ itent x ≠ 0) ∧
  (∀ x y : Word, itent x = itent y ↔ x = y ∨ x = ~~~y) ∧
  itent 0 = 0x9E3779B9 ∧ itent 0xFFFFFFFF = 0x9E3779B9 ∧ itent 0x7FFFFFFF = 0x9E3779B7 ∧
  itent 0x80000000 = 0x9E3779B7 ∧ itent 0x12345678 = 0xC2A026A9

/-- R105: ILOG in whole numbers (the quotient is below 2^32, so nothing is dropped), its symmetry, and its examples. -/
def Obligations.LogisticArithmetic : Prop :=
  (∀ x : Word, x.toNat * (2 ^ 32 - 1 - x.toNat) < 2 ^ 62 ∧
    (ilog x).toNat = (x.toNat * (2 ^ 32 - 1 - x.toNat) / 2 ^ 30 + 0x61C88647) % 2 ^ 32 ∧ ilog x = ilog (~~~x)) ∧
  ilog 0 = 0x61C88647 ∧ ilog 0xFFFFFFFF = 0x61C88647 ∧ ilog 1 = 0x61C8864A ∧ ilog 0x7FFFFFFF = 0x61C88645 ∧
  ilog 0x80000000 = 0x61C88645 ∧ ilog 0x12345678 = 0xA56C44B6

/-- R106: no operation of ISINE can return a NaN, so its result does not depend on the NaNs that R111 leaves open. -/
def Obligations.SineMeetsNoNaN : Prop :=
  ∀ (nan : Nat → F64) (x : Word), isineWith nan x = isine x

/-- R106: the rule's values: at 0, at 2^31 (through the wrap of 2^34), at 1, at 2^32 − 1, and its example. -/
def Obligations.SineValues : Prop :=
  isine 0 = 0xB504F333 ∧ isine 0x80000000 = 0xB504F333 ∧ isine 1 = 0xB504F33F ∧ isine 0xFFFFFFFF = 0xB504F33F ∧
  isine 0x12345678 = 0x998AC4CE

/-- R107: IHENON in whole numbers: x' from the two halves of the exact square, y' the pre-update x; and its examples. -/
def Obligations.HenonArithmetic : Prop :=
  (∀ s : Tri Word,
    let q := s.x.toNat * s.x.toNat
    ((ihenon s).x.toNat : Int) =
      ((s.y.toNat : Int) + 0x6D2B79F5 - ((q % 2 ^ 32) ^^^ (q / 2 ^ 32) : Nat)) % 2 ^ 32 ∧
    (ihenon s).y = s.x) ∧
  ihenon ⟨0, 0, 0⟩ = ⟨0x6D2B79F5, 0, 0⟩ ∧
  ihenon ⟨0xFFFFFFFF, 0xFFFFFFFF, 0⟩ = ⟨0x6D2B79F5, 0xFFFFFFFF, 0⟩ ∧
  ihenon ⟨1, 2, 0⟩ = ⟨0x6D2B79F6, 1, 0⟩ ∧
  ihenon ⟨0x12345678, 0x9ABCDEF0, 0⟩ = ⟨0xEB289A49, 0x12345678, 0⟩

/-- R108, R109: ILORENZ and ICHEN in whole numbers modulo 2^32, all differences from the pre-update state, and their fixed
point: a lane of zeros stays zero for any number of transitions; and the rules' examples. -/
def Obligations.LorenzAndChenArithmetic : Prop :=
  (∀ s : Tri Word,
    let x := s.x.toNat
    let y := s.y.toNat
    let z := s.z.toNat
    (ilorenz s).x.toNat = (x + (y + 2 ^ 32 - x) % 2 ^ 32 / 4) % 2 ^ 32 ∧
    (ilorenz s).y.toNat = (y + ((x ^^^ (y / 8)) + 2 ^ 32 - z)) % 2 ^ 32 ∧
    (ilorenz s).z.toNat = (z + ((x + y) % 2 ^ 32 ^^^ (2 * z % 2 ^ 32))) % 2 ^ 32 ∧
    (ichen s).x.toNat = (x + 3 * (y + 2 ^ 32 - x)) % 2 ^ 32 ∧
    (ichen s).y.toNat = (y + ((x ^^^ (4 * y % 2 ^ 32)) + z / 2)) % 2 ^ 32 ∧
    (ichen s).z.toNat = (z + ((x + y) % 2 ^ 32 ^^^ (3 * z % 2 ^ 32))) % 2 ^ 32) ∧
  (∀ n : Nat, ilorenz^[n] ⟨0, 0, 0⟩ = ⟨0, 0, 0⟩ ∧ ichen^[n] ⟨0, 0, 0⟩ = ⟨0, 0, 0⟩) ∧
  ilorenz ⟨1, 2, 3⟩ = ⟨1, 0, 8⟩ ∧ ichen ⟨1, 2, 3⟩ = ⟨4, 12, 13⟩ ∧
  ilorenz ⟨0xFFFFFFFF, 0xFFFFFFFF, 0xFFFFFFFF⟩ = ⟨0xFFFFFFFF, 0xE0000000, 0xFFFFFFFF⟩ ∧
  ichen ⟨0xFFFFFFFF, 0xFFFFFFFF, 0xFFFFFFFF⟩ = ⟨0xFFFFFFFF, 0x80000001, 0x00000002⟩

/-- R111, R14: the one rounding of every float operation is to nearest, ties to even: no finite magnitude is nearer to
num / den units than the one chosen, an equally near one leaves the chosen even, and the result is an infinity exactly
from half a unit above the greatest finite value on. -/
def Obligations.RoundingIsNearestTiesToEven : Prop :=
  ∀ num den : Nat, 0 < den →
    let m := roundUnits num den
    let distance := fun k => (((units (packFloat false k) * den : Nat) : Int) - (num : Int)).natAbs
    (m = infMagnitude ↔ (2 ^ 54 - 1) * 2 ^ 2044 * den ≤ num) ∧
    (m < infMagnitude → ∀ k < infMagnitude,
      distance m ≤ distance k ∧ (k ≠ m → distance m = distance k → m % 2 = 0))

/-- R111: an operation whose result is a NaN returns the quiet NaN whose sign and payload are the free value supplied to
it (log 9); the NaNs that a STEP supplies are quiet NaNs with exactly those bits. -/
def Obligations.NaNResultsAreTheFreeOnes : Prop :=
  (∀ nan a b : F64, ∀ r ∈ [fadd nan a b, fsub nan a b, fmul nan a b, fdiv nan a b], isNaN r = true → r = nan) ∧
  (∀ nan a b : F64, isNaN a = true ∨ isNaN b = true →
    fadd nan a b = nan ∧ fsub nan a b = nan ∧ fmul nan a b = nan ∧ fdiv nan a b = nan) ∧
  (∀ cmd iter k op : Nat,
    isNaN (freeNaN cmd iter k op) = true ∧ (freeNaN cmd iter k op).getLsbD 51 = true ∧
    (freeNaN cmd iter k op).getLsbD 63 = (Config.freeNaN cmd iter k op).getLsbD 51 ∧
    (freeNaN cmd iter k op).extractLsb' 0 51 = (Config.freeNaN cmd iter k op).extractLsb' 0 51)

/-- R112 .. R118: FLOG takes 0 and 1 to +0, FTENT takes 0.5 down the second branch and 1 to +0, FSINE is SINE_R · SIN_PI(x) at
the scalar tier and 0 at 0 at the wide ones, and the zero lane is a fixed point of FLORENZ and FCHEN and goes to (1, 0) under
FHENON; and the rules' examples, with their parameters. All whatever NaNs the operations would return. -/
def Obligations.FloatCorners : Prop :=
  ∀ nan : Nat → F64,
    flog nan 0 = 0 ∧ flog nan 0x3FF0000000000000 = 0 ∧ flog nan 0x3FE0000000000000 = 0x3FEFEB851EB851EC ∧
    flog nan 0x3FD0000000000000 = 0x3FE7F0A3D70A3D71 ∧
    ftent nan 0x3FF0000000000000 = 0 ∧ ftent nan 0x3FE0000000000000 = 0x3FEFFF972474538F ∧
    ftent nan 0x3FB999999999999A = 0x3FC99945B6C3760C ∧
    florenz nan ⟨0, 0, 0⟩ = ⟨0, 0, 0⟩ ∧
    florenz nan ⟨0x3FF0000000000000, 0x4000000000000000, 0x4008000000000000⟩ =
      ⟨0x3FF199999999999A, 0x4001D70A3D70A3D7, 0x4007851EB851EB85⟩ ∧
    (∀ (p : Params) (x : F64), fsineScalar p nan x = fmul (nan 0) p.sineR (Config.sinPi x)) ∧
    (∀ p : Params, p.sineR = 0x3FEFAE147AE147AE →
      fsineWide p nan 0 = 0 ∧ fsineWide p nan 0x3FE0000000000000 = p.sineR ∧
      fsineWide p nan 0x3FD0000000000000 = 0x3FE65CC3298FF65C) ∧
    (∀ p : Params, p.henonA = 0x3FF6666666666666 → p.henonB = 0x3FD3333333333333 → ∀ z : F64,
      fhenon p nan ⟨0, 0, z⟩ = ⟨0x3FF0000000000000, 0, z⟩ ∧
      fhenon p nan ⟨0x3FB999999999999A, 0x3FC999999999999A, z⟩ = ⟨0x3FF2F9DB22D0E560, 0x3F9EB851EB851EB8, z⟩) ∧
    (∀ p : Params, p.chenA = 0x4041800000000000 → p.chenB = 0x4008000000000000 → p.chenC = 0x403C000000000000 →
      p.chenDt = 0x3F50624DD2F1A9FC →
      fchen p nan ⟨0, 0, 0⟩ = ⟨0, 0, 0⟩ ∧
      fchen p nan ⟨0x3FF0000000000000, 0x4000000000000000, 0x4008000000000000⟩ =
        ⟨0x3FF08F5C28F5C28F, 0x40005E353F7CED91, 0x4007F1A9FBE76C8B⟩)

/-- R160: mix in whole numbers, in the rule's order of steps, and the rule's trace. R161: it is a bijection on u32, with the
inverse the rule gives; each of its steps is invertible as the rule says; only 0 mixes to 0. -/
def Obligations.MixIsABijection : Prop :=
  (∀ k : Word,
    let a := k.toNat * 0x85EBCA6B % 2 ^ 32
    let b := a ^^^ (a / 2 ^ 16)
    let c := b * 0xC2B2AE35 % 2 ^ 32
    (mix k).toNat = c ^^^ (c / 2 ^ 13)) ∧
  0x12345678#32 * 0x85EBCA6B = 0xA042D428 ∧ 0xA042D428#32 ^^^ (0xA042D428#32 >>> 16) = 0xA042746A ∧
  0xA042746A#32 * 0xC2B2AE35 = 0x9E9625F2 ∧ 0x9E9625F2#32 ^^^ (0x9E9625F2#32 >>> 13) = 0x9E92D143 ∧
  mix 0x12345678 = 0x9E92D143 ∧
  (∀ k : Word, unmix (mix k) = k ∧ mix (unmix k) = k ∧ (mix k = 0 ↔ k = 0)) ∧ Function.Bijective mix ∧
  (0x85EBCA6B#32 * 0xA5CB9243 = 1 ∧ 0xC2B2AE35#32 * 0x7ED1B41D = 1) ∧
  (∀ k : Word, (k ^^^ (k >>> 16)) ^^^ ((k ^^^ (k >>> 16)) >>> 16) = k ∧
    (let j := k ^^^ (k >>> 13); j ^^^ (j >>> 13) ^^^ (j >>> 26)) = k)

/-! ### NOP, MIX, IVDER, SINVAL -/

/-- R140, R163, R234, R235: the four commands without a tier complete with OK from every state; NOP changes no register
but STATUS, MIX writes mix(DIN) to DOUT, IVDER writes the derived IV of block SPOS div 4096 to DIV, whatever KEYLEN and
IVLEN hold, and SINVAL clears BLK_VALID. -/
def Obligations.PlainCommands : Prop :=
  ∀ s : State,
    exec .nop s = .next { s with err := .ok, done := true, inProgress := none } ∧
    exec .mix s = .next { s with dout := mix s.din, err := .ok, done := true, inProgress := none } ∧
    exec .sinval s = .next { s with blkValid := false, err := .ok, done := true, inProgress := none } ∧
    ∃ D, exec .ivder s = .next { s with div := D, err := .ok, done := true, inProgress := none } ∧
      word D 0 = word s.iv 0 ^^^ BitVec.ofNat 32 (s.spos.toNat / 4096) ∧
      word D 1 = word s.iv 1 ^^^ BitVec.ofNat 32 (s.spos.toNat / 2 ^ 44) ∧
      word D 2 = word s.iv 2 ∧ word D 3 = word s.iv 3

/-- R221: the derived IV by bytes (the little-endian bytes of the block index over the first eight bytes of the IV), in
register form, and the rule's two examples. -/
def Obligations.DerivedIvByBytes : Prop :=
  (∀ (iv : Vector Word 4) (b : DWord), ∀ j < 16,
    ivByte (deriveIv iv b) j =
      if j < 8 then ivByte iv j ^^^ BitVec.ofNat 8 (b.toNat / 2 ^ (8 * j)) else ivByte iv j) ∧
  (∀ (iv : Vector Word 4) (b : DWord),
    word (deriveIv iv b) 0 = word iv 0 ^^^ b.extractLsb' 0 32 ∧ word (deriveIv iv b) 1 = word iv 1 ^^^ b.extractLsb' 32 32 ∧
    word (deriveIv iv b) 2 = word iv 2 ∧ word (deriveIv iv b) 3 = word iv 3) ∧
  let iv : Vector Word 4 := #v[0x22222222, 0x22222222, 0x22222222, 0x22222222]
  deriveIv iv 1 = #v[0x22222223, 0x22222222, 0x22222222, 0x22222222] ∧
  deriveIv iv 0x0102030405060708 = #v[0x2724252A, 0x23202126, 0x22222222, 0x22222222]

/-! ### KSGEN (42_mixer) -/

/-- R164 .. R170: KSGEN, each of the six, at an available tier writes the mixed combination of the first D vectors to
every active lane of KS, and nothing else but STATUS. -/
def Obligations.KsgenWritesTheMixedLanes : Prop :=
  ∀ (t : TierReq) (T : Tier) (s : State), resolve s.params t = some T →
    ∀ c ∈ [(Instr.ksgenItent t, fun k => word s.v0 k), (.ksgenIlog t, fun k => word s.v0 k),
        (.ksgenIsine t, fun k => word s.v0 k), (.ksgenIhenon t, fun k => word s.v0 k ^^^ word s.v1 k),
        (.ksgenIlorenz t, fun k => word s.v0 k ^^^ word s.v1 k ^^^ word s.v2 k),
        (.ksgenIchen t, fun k => word s.v0 k ^^^ word s.v1 k ^^^ word s.v2 k)],
      ∃ K, exec c.1 s = .next { s with ks := K, tierUsed := some T, err := .ok, done := true, inProgress := none } ∧
        ∀ k < 16, word K k = if k < lanesU T then mix (c.2 k) else word s.ks k

/-! ### STEP (41_engine) -/

/-- R141 .. R144, R102: STEP on a one-dimensional integer primitive applies the transition CNT times to each active u32
lane of V0, each lane by itself; the other lanes and vectors keep their values. -/
def Obligations.StepOneDimensional : Prop :=
  ∀ (t : TierReq) (T : Tier) (s : State), resolve s.params t = some T →
    ∀ c ∈ [(Instr.stepItent t, itent), (.stepIlog t, ilog), (.stepIsine t, isine)],
      ∃ X, exec c.1 s = .next { s with v0 := X, tierUsed := some T, err := .ok, done := true, inProgress := none } ∧
        ∀ k < 16, word X k = if k < lanesU T then c.2^[s.cnt.toNat] (word s.v0 k) else word s.v0 k

/-- R141, R145, R102: STEP.IHENON steps the pairs of V0 and V1, CNT times, lane by lane; V2 is neither read nor written. -/
def Obligations.StepTwoDimensional : Prop :=
  ∀ (t : TierReq) (T : Tier) (s : State), resolve s.params t = some T →
    ∃ X Y, exec (.stepIhenon t) s =
        .next { s with v0 := X, v1 := Y, tierUsed := some T, err := .ok, done := true, inProgress := none } ∧
      ∀ k < 16,
        let r := if k < lanesU T then ihenon^[s.cnt.toNat] ⟨word s.v0 k, word s.v1 k, 0⟩ else ⟨word s.v0 k, word s.v1 k, 0⟩
        word X k = r.x ∧ word Y k = r.y

/-- R141, R146, R147, R102: STEP.ILORENZ and STEP.ICHEN step the triples of V0, V1, V2, CNT times, lane by lane. -/
def Obligations.StepThreeDimensional : Prop :=
  ∀ (t : TierReq) (T : Tier) (s : State), resolve s.params t = some T →
    ∀ c ∈ [(Instr.stepIlorenz t, ilorenz), (.stepIchen t, ichen)],
      ∃ X Y Z, exec c.1 s =
          .next { s with v0 := X, v1 := Y, v2 := Z, tierUsed := some T, err := .ok, done := true, inProgress := none } ∧
        ∀ k < 16, (⟨word X k, word Y k, word Z k⟩ : Tri Word) =
          if k < lanesU T then c.2^[s.cnt.toNat] ⟨word s.v0 k, word s.v1 k, word s.v2 k⟩
          else ⟨word s.v0 k, word s.v1 k, word s.v2 k⟩

/-- R141, R148 .. R150, R102, R119: STEP on a one-dimensional float primitive applies the transition CNT times to each
active f64 lane of V0, with the free NaNs of its own command, transition and lane (log 9); FSINE by the tier's formula. -/
def Obligations.StepFloatOneDimensional : Prop :=
  ∀ (t : TierReq) (T : Tier) (s : State), resolve s.params t = some T →
    ∀ c ∈ [(Instr.stepFlog t, flog), (.stepFtent t, ftent),
        (.stepFsine t, if T = .scalar then fsineScalar s.params else fsineWide s.params)],
      ∃ X, exec c.1 s =
          .next { s with
            v0 := X
            tierUsed := some T
            err := .ok
            done := true
            inProgress := none
            freeIdx := s.freeIdx + 1 } ∧
        ∀ k < 8, floatLane X k =
          if k < lanesF T then
            repeatFrom (fun j => c.2 (freeNaN s.freeIdx j k)) s.cnt.toNat 0 (floatLane s.v0 k)
          else floatLane s.v0 k

/-- R141, R151 .. R153, R102: STEP.FHENON, STEP.FLORENZ and STEP.FCHEN step the f64 tuples of the first D vectors, CNT
times, lane by lane; FHENON neither reads nor writes V2. -/
def Obligations.StepFloatManyDimensional : Prop :=
  ∀ (t : TierReq) (T : Tier) (s : State), resolve s.params t = some T →
    (∃ X Y, exec (.stepFhenon t) s =
        .next { s with
          v0 := X
          v1 := Y
          tierUsed := some T
          err := .ok
          done := true
          inProgress := none
          freeIdx := s.freeIdx + 1 } ∧
      ∀ k < 8,
        let a : Tri F64 := ⟨floatLane s.v0 k, floatLane s.v1 k, 0⟩
        let r := if k < lanesF T then
            repeatFrom (fun j => fhenon s.params (freeNaN s.freeIdx j k)) s.cnt.toNat 0 a else a
        floatLane X k = r.x ∧ floatLane Y k = r.y) ∧
    ∀ c ∈ [(Instr.stepFlorenz t, florenz), (.stepFchen t, fchen s.params)],
      ∃ X Y Z, exec c.1 s =
          .next { s with
            v0 := X
            v1 := Y
            v2 := Z
            tierUsed := some T
            err := .ok
            done := true
            inProgress := none
            freeIdx := s.freeIdx + 1 } ∧
        ∀ k < 8,
          let a : Tri F64 := ⟨floatLane s.v0 k, floatLane s.v1 k, floatLane s.v2 k⟩
          (⟨floatLane X k, floatLane Y k, floatLane Z k⟩ : Tri F64) =
            if k < lanesF T then repeatFrom (fun j => c.2 (freeNaN s.freeIdx j k)) s.cnt.toNat 0 a else a

/-- R141: m + n transitions are m and then n of them: the lanes are those of two STEP commands. -/
def Obligations.StepsCompose : Prop :=
  ∀ (t : TierReq) (T : Tier) (p : IntPrim) (s : State) (m n : Nat), resolve s.params t = some T → m + n < 2 ^ 32 →
    ∃ u v w, exec (stepIntOf t p) { s with cnt := BitVec.ofNat 32 m } = .next u ∧
      exec (stepIntOf t p) { u with cnt := BitVec.ofNat 32 n } = .next v ∧
      exec (stepIntOf t p) { s with cnt := BitVec.ofNat 32 (m + n) } = .next w ∧
      v.v0 = w.v0 ∧ v.v1 = w.v1 ∧ v.v2 = w.v2

/-! ### DERIVE (43_cipher) -/

/-- R193 .. R199: DERIVE, each of the six, writes the derived seeds to the active lanes of the first D vectors. -/
def Obligations.DeriveWritesTheSeeds : Prop :=
  ∀ (t : TierReq) (T : Tier) (s : State), CipherReady t T s →
    (∀ c ∈ [(Instr.deriveItent t, IntPrim.itent), (.deriveIlog t, .ilog), (.deriveIsine t, .isine)],
      ∃ X, exec c.1 s = .next { s with v0 := X, tierUsed := some T, err := .ok, done := true, inProgress := none } ∧
        ∀ k < 16, word X k =
          if k < lanesU T then (laneOf (deriveSeeds c.2 T s.key s.iv s.ivlen.toNat) k).x else word s.v0 k) ∧
    (∃ X Y, exec (.deriveIhenon t) s =
        .next { s with v0 := X, v1 := Y, tierUsed := some T, err := .ok, done := true, inProgress := none } ∧
      ∀ k < 16,
        let S := laneOf (deriveSeeds .ihenon T s.key s.iv s.ivlen.toNat) k
        word X k = (if k < lanesU T then S.x else word s.v0 k) ∧
        word Y k = (if k < lanesU T then S.y else word s.v1 k)) ∧
    (∀ c ∈ [(Instr.deriveIlorenz t, IntPrim.ilorenz), (.deriveIchen t, .ichen)],
      ∃ X Y Z, exec c.1 s =
          .next { s with v0 := X, v1 := Y, v2 := Z, tierUsed := some T, err := .ok, done := true, inProgress := none } ∧
        ∀ k < 16, (⟨word X k, word Y k, word Z k⟩ : Tri Word) =
          if k < lanesU T then laneOf (deriveSeeds c.2 T s.key s.iv s.ivlen.toNat) k
          else ⟨word s.v0 k, word s.v1 k, word s.v2 k⟩)

/-- R180 .. R183: the pre-seeds: key word i mod 8, mixed with IV word i mod 4, i mod 2 or 0 for an IV of 16, 8 or 4 bytes,
alone for an IV of fewer than 4; never 0; and they depend on no IV byte past the first n. The IV word of lane i, for any IV
of 4 bytes or more, is the four bytes from (4 · i) mod n on, taken cyclically inside the IV, with the example of R181. -/
def Obligations.PreSeedsFollowKeyAndIv : Prop :=
  ∀ (key : Vector Word 8) (iv : Vector Word 4) (i : Nat),
    let nonzero := fun w : Word => if w = 0 then 0xDEADBEEF else w
    preSeed key iv 16 i = nonzero (word key (i % 8) ^^^ word iv (i % 4)) ∧
    preSeed key iv 8 i = nonzero (word key (i % 8) ^^^ word iv (i % 2)) ∧
    preSeed key iv 4 i = nonzero (word key (i % 8) ^^^ word iv 0) ∧
    (∀ n < 4, preSeed key iv n i = nonzero (word key (i % 8))) ∧
    (∀ n, 4 ≤ n → preSeed key iv n i = nonzero (word key (i % 8) ^^^ ivWord iv n i)) ∧
    (∀ n, 4 ≤ n → ∀ b < 4, (ivWord iv n i).toNat / 2 ^ (8 * b) % 2 ^ 8 = (ivByte iv ((4 * i % n + b) % n)).toNat) ∧
    (∀ j, (ivByte iv j).toNat = (word iv (j / 4)).toNat / 2 ^ (8 * (j % 4)) % 2 ^ 8) ∧
    (let six : Vector Word 4 := #v[0x04030201, 0x00000605, 0, 0]
     ivWord six 6 0 = 0x04030201 ∧ ivWord six 6 1 = 0x02010605 ∧ ivWord six 6 2 = 0x06050403 ∧
     ivWord six 6 3 = 0x04030201) ∧
    (∀ n, preSeed key iv n i ≠ 0) ∧
    (∀ n (iv' : Vector Word 4), (∀ j < n, ivByte iv j = ivByte iv' j) → preSeed key iv n i = preSeed key iv' n i)

/-- R185: the seeds are the pre-seeds after 16 warm-up rounds, and one round is in place, in ascending order: each lane is
stepped and XORed, in each of its D components, with half its neighbour as that stands: from the round before, but for the
last lane, which finds lane 0 of this round; one lane alone is its own neighbour, just stepped. -/
def Obligations.WarmUpIsInPlace : Prop :=
  (∀ (p : IntPrim) (T : Tier) (key : Vector Word 8) (iv : Vector Word 4) (n : Nat),
    deriveSeeds p T key iv n = (warmRound p (lanesU T))^[16]
      ((List.range (lanesU T)).map fun i => ⟨preSeed key iv n i, preSeed key iv n i, preSeed key iv n i⟩)) ∧
  ∀ (p : IntPrim) (S : List (Tri Word)) (i : Nat), i < S.length →
    let stepped := intTransition p (laneOf S i)
    let neighbour :=
      if S.length = 1 then intTransition p (laneOf S 0)
      else if i + 1 < S.length then laneOf S (i + 1)
      else laneOf (warmRound p S.length S) 0
    let warm := laneOf (warmRound p S.length S) i
    warm.x = stepped.x ^^^ BitVec.ofNat 32 (neighbour.x.toNat / 2) ∧
    warm.y = (if p ∈ [.ihenon, .ilorenz, .ichen] then stepped.y ^^^ BitVec.ofNat 32 (neighbour.y.toNat / 2)
      else stepped.y) ∧
    warm.z = (if p ∈ [.ilorenz, .ichen] then stepped.z ^^^ BitVec.ofNat 32 (neighbour.z.toNat / 2) else stepped.z)

/-- R186: for ITENT at the scalar tier the seed is never 0. -/
def Obligations.ScalarTentSeedIsNotZero : Prop :=
  ∀ (key : Vector Word 8) (iv : Vector Word 4) (n : Nat), (laneOf (deriveSeeds .itent .scalar key iv n) 0).x ≠ 0

/-! ### The keystream and PROCESS (43_cipher) -/

/-- R187 .. R189: the keystream has N bytes. Byte j·W + 4k + b of the vector prefix is byte b of the mixed word of lane k
after j + 1 transitions from its seed; byte i of the tail is the low byte of the mixed word of lane 0, i + 1 transitions
after the last vector iteration. -/
def Obligations.KeystreamByteFormula : Prop :=
  ∀ (p : IntPrim) (T : Tier) (key : Vector Word 8) (iv : Vector Word 4) (n N : Nat),
    (keystream p T key iv n N).length = N ∧
    ∀ i < N, (keystream p T key iv n N).getD i 0 =
      if i < N / stride T * stride T then
        byteOf (mix (comb p ((intTransition p)^[i / stride T + 1]
          (laneOf (deriveSeeds p T key iv n) (i % stride T / 4))))) (i % 4)
      else
        byteOf (mix (comb p ((intTransition p)^[N / stride T + (i - N / stride T * stride T) + 1]
          (laneOf (deriveSeeds p T key iv n) 0)))) 0

/-- R200 .. R206, R65, R190: PROCESS, each of the six, XORs keystream byte i into buffer byte ADDR + i, once each, and
changes no other byte and nothing else but STATUS. LEN = 0 changes no byte (R192). -/
def Obligations.ProcessXorsTheKeystream : Prop :=
  ∀ (t : TierReq) (T : Tier) (s : State), CipherReady t T s → BufferReady s → Memory.wf s.mem = true →
    ∀ c ∈ [(Instr.processItent t, IntPrim.itent), (.processIlog t, .ilog), (.processIsine t, .isine),
        (.processIhenon t, .ihenon), (.processIlorenz t, .ilorenz), (.processIchen t, .ichen)],
      ∃ M, exec c.1 s = .next { s with mem := M, tierUsed := some T, err := .ok, done := true, inProgress := none } ∧
        Memory.wf M = true ∧
        ∀ a, readByte M a =
          if s.addr.toNat ≤ a ∧ a < s.addr.toNat + s.len.toNat then
            readByte s.mem a ^^^
              (keystream c.2 T s.key s.iv s.ivlen.toNat s.len.toNat).getD (a - s.addr.toNat) 0
          else readByte s.mem a

/-- R191: the same PROCESS issued again, on the state it left, restores data memory, and both complete with OK. -/
def Obligations.ProcessIsAnInvolution : Prop :=
  ∀ (t : TierReq) (T : Tier) (p : IntPrim) (s : State), CipherReady t T s → BufferReady s → Memory.wf s.mem = true →
    ∃ u v, exec (processOf t p) s = .next u ∧ u.err = .ok ∧
      exec (processOf t p) (issue (encode (processOf t p)) u) = .next v ∧ v.err = .ok ∧ v.mem = s.mem

/-- R190, R46: no command's effect on the block depends on what data memory holds, and what it XORs into each byte of memory
(nothing, but for PROCESS and SAPPLY) does not either: the keystream does not read the buffer. PROCESS and SAPPLY neither
depend on V0 .. V2 and KS nor change them. -/
def Obligations.KeystreamIgnoresBufferAndLanes : Prop :=
  (∀ (i : Instr) (s t : State) (m : Memory), exec i s = .next t →
    ∃ m', exec i { s with mem := m } = .next { t with mem := m' } ∧
      (Memory.wf s.mem = true → Memory.wf m = true → ∀ a,
        readByte m' a ^^^ readByte m a = readByte t.mem a ^^^ readByte s.mem a)) ∧
  (∀ (q : TierReq) (p : IntPrim) (s t : State) (x y z k : Vector Word 16), ∀ i ∈ [processOf q p, sapplyOf q p],
    exec i s = .next t →
    exec i { s with v0 := x, v1 := y, v2 := z, ks := k } = .next { t with v0 := x, v1 := y, v2 := z, ks := k })

/-- R193: after DERIVE, STEP with CNT = 1 and KSGEN of one primitive at one tier, KS holds the words of the keystream's
first vector iteration. -/
def Obligations.DeriveStepKsgenIsTheKeystream : Prop :=
  ∀ (t : TierReq) (T : Tier) (p : IntPrim) (s : State) (N : Nat), CipherReady t T s → stride T ≤ N →
    ∃ u v w, exec (deriveOf t p) s = .next u ∧ exec (stepIntOf t p) { u with cnt := 1 } = .next v ∧
      exec (ksgenOf t p) v = .next w ∧
      ∀ k < lanesU T, ∀ b < 4,
        (keystream p T s.key s.iv s.ivlen.toNat N).getD (4 * k + b) 0 = byteOf (word w.ks k) b

/-! ### SAPPLY (44_stream) -/

/-- R227 .. R233, R237: SAPPLY, each of the six, from a state that keeps the invariant: buffer byte i is XORed with the
stream's byte at position SPOS + i, whatever the cache held; SPOS advances by LEN; and the cache then holds the last block,
BLKTAG its PRIM and tier code as R37 numbers them, 0x14 for ILORENZ at the scalar tier (LEN = 0 leaves it alone). Nothing
else but DIV and STATUS changes. -/
def Obligations.SapplyIsPositionIndependent : Prop :=
  ∀ (t : TierReq) (T : Tier) (s : State), StreamReady t T s → Invariant s →
    ∀ c ∈ [(Instr.sapplyItent t, IntPrim.itent, 0), (.sapplyIlog t, .ilog, 1), (.sapplyIsine t, .isine, 2),
        (.sapplyIhenon t, .ihenon, 3), (.sapplyIlorenz t, .ilorenz, 4), (.sapplyIchen t, .ichen, 5)],
      ∃ M D B I G V, exec c.1 s =
          .next { s with
            mem := M
            div := D
            blkbuf := B
            blkidx := I
            blktag := G
            blkValid := V
            spos := s.spos + s.len.setWidth 64
            tierUsed := some T
            err := .ok
            done := true
            inProgress := none } ∧
        (∀ a, readByte M a =
          if s.addr.toNat ≤ a ∧ a < s.addr.toNat + s.len.toNat then
            readByte s.mem a ^^^ streamByte c.2.1 T s.key s.iv (s.spos.toNat + (a - s.addr.toNat))
          else readByte s.mem a) ∧
        (if s.len = 0 then D = s.div ∧ B = s.blkbuf ∧ I = s.blkidx ∧ G = s.blktag ∧ V = s.blkValid
         else V = true ∧ G.toNat = c.2.2 + 16 * (match T with | .scalar => 1 | .w256 => 2 | .w512 => 3) ∧
          B = block c.2.1 T s.key s.iv I ∧
          I = BitVec.ofNat 64 ((s.spos.toNat + s.len.toNat - 1) / 4096))

/-- R224, R225: DIV tells a hit from a miss: a SAPPLY inside the one block that the cache holds leaves DIV alone, and any
other with LEN > 0 leaves the derived IV of the last block it touched. -/
def Obligations.DivTellsAHitFromAMiss : Prop :=
  ∀ (t : TierReq) (T : Tier) (p : IntPrim) (s u : State), StreamReady t T s → 0 < s.len.toNat →
    exec (sapplyOf t p) s = .next u →
    let first := s.spos.toNat / 4096
    let last := (s.spos.toNat + s.len.toNat - 1) / 4096
    u.div =
      if first = last ∧ s.blkValid = true ∧ s.blkidx = BitVec.ofNat 64 first ∧ s.blktag = blockTag p T then s.div
      else deriveIv s.iv (BitVec.ofNat 64 last)

/-- R238, R239: a SAPPLY of m + n bytes leaves the block and data memory as one of m bytes and then one of n bytes at the
following ADDR, but for ADDR and LEN as the host set them; also where the split is a block boundary. R238 lets DIV and the
cache differ in which blocks were regenerated: by R224 and R225 the second of the two commands hits the block that the first
left, so they do not differ. -/
def Obligations.SapplyIsAdditive : Prop :=
  ∀ (t : TierReq) (T : Tier) (p : IntPrim) (s : State) (m n : Nat), s.len.toNat = m + n → StreamReady t T s → Invariant s →
    ∃ u v w, exec (sapplyOf t p) { s with len := BitVec.ofNat 32 m } = .next u ∧
      exec (sapplyOf t p) { u with len := BitVec.ofNat 32 n, addr := s.addr + BitVec.ofNat 32 m } = .next v ∧
      exec (sapplyOf t p) s = .next w ∧ u.err = .ok ∧ v.err = .ok ∧ w.err = .ok ∧
      w.spos = s.spos + BitVec.ofNat 64 (m + n) ∧ w = { v with addr := s.addr, len := s.len }

/-! ### The invariant -/

/-- The invariant of the block holds at reset. It rests on BLKBUF's and memory's reset contents, the model's choice (log 5,
log 6), only for their form. -/
def Obligations.InvariantAtReset : Prop := Invariant State.reset

/-- Every step keeps the invariant of the block: the canonical form of memory, the truth of the block cache (R45, R226),
block indices below 2^52 (R220), DONE = 0 and ERR = 0 while BUSY = 1 (R26, R291), a legal command word in progress (R89),
no reserved error code (R250), and TIER_USED an implemented tier (R25). -/
def Obligations.StepKeepsTheInvariant : Prop :=
  ∀ s t : State, Invariant s → step s = .next t → Invariant t

/-- R5, R22, R23: no step changes the tier options of the part, so ID and CAP read the same for the life of the block. That
MemAdmits and the float constants (R9, R60) stay as well is the model's choice (log 3), unsafe for a platform whose MemAdmits
changes while the block runs. -/
def Obligations.ParametersNeverChange : Prop :=
  ∀ s t : State, step s = .next t → t.params = s.params ∧ readReg .id t = readReg .id s ∧ readReg .cap t = readReg .cap s

/-! ### Binary64 operations (40_primitives R111) -/

/-- R111, R14: addition, subtraction, multiplication, division and the ordered less-than of binary64 values. Of finite ones
the result is the exact one, rounded once by `roundUnits`, with its sign; an exact zero sum is +0 but for −0 + −0 and
−0 − +0; zeros, infinities and x / 0 follow IEEE, and the invalid operations give the NaN. A finite value is a whole number
of units of 2^−1074: its low 52 bits, with bit 52 set above the lowest binade, scaled by the exponent field. -/
def Obligations.FloatOperationsRoundTheExactResult : Prop :=
  ∀ nan a b : F64,
    let finite : F64 → Prop := fun x => x.toNat / 2 ^ 52 % 2 ^ 11 < 2047
    let infinite : F64 → Prop := fun x => x.toNat % 2 ^ 63 = 2047 * 2 ^ 52
    let negative : F64 → Bool := fun x => x.getLsbD 63
    let size : F64 → Nat := fun x =>
      if x.toNat / 2 ^ 52 % 2 ^ 11 = 0 then x.toNat % 2 ^ 52
      else (2 ^ 52 + x.toNat % 2 ^ 52) * 2 ^ (x.toNat / 2 ^ 52 % 2 ^ 11 - 1)
    let value : F64 → Int := fun x => if negative x then -(size x : Int) else (size x : Int)
    let pack : Bool → Nat → F64 := fun sign m => BitVec.ofNat 64 (if sign then 2 ^ 63 + m else m)
    let inf : Nat := 2047 * 2 ^ 52
    (finite a → finite b →
      (value a + value b ≠ 0 →
        fadd nan a b = pack (decide (value a + value b < 0)) (roundUnits (value a + value b).natAbs 1)) ∧
      (value a + value b = 0 → fadd nan a b = pack (negative a && negative b) 0) ∧
      (value a - value b ≠ 0 →
        fsub nan a b = pack (decide (value a - value b < 0)) (roundUnits (value a - value b).natAbs 1)) ∧
      (value a - value b = 0 → fsub nan a b = pack (negative a && !negative b) 0) ∧
      fmul nan a b = pack (negative a != negative b) (roundUnits (size a * size b) (2 ^ 1074)) ∧
      (size b ≠ 0 → fdiv nan a b = pack (negative a != negative b) (roundUnits (size a * 2 ^ 1074) (size b))) ∧
      (size b = 0 → size a ≠ 0 → fdiv nan a b = pack (negative a != negative b) inf) ∧
      (size b = 0 → size a = 0 → fdiv nan a b = nan) ∧
      flt a b = decide (value a < value b)) ∧
    (infinite a → finite b →
      fadd nan a b = a ∧ fadd nan b a = a ∧ fsub nan a b = a ∧ fsub nan b a = pack (!negative a) inf ∧
      (size b ≠ 0 → fmul nan a b = pack (negative a != negative b) inf ∧ fmul nan b a = pack (negative a != negative b) inf) ∧
      (size b = 0 → fmul nan a b = nan ∧ fmul nan b a = nan) ∧
      fdiv nan a b = pack (negative a != negative b) inf ∧ fdiv nan b a = pack (negative a != negative b) 0 ∧
      flt a b = negative a ∧ flt b a = !negative a) ∧
    (infinite a → infinite b →
      fadd nan a b = (if negative a = negative b then a else nan) ∧
      fsub nan a b = (if negative a = negative b then nan else a) ∧
      fmul nan a b = pack (negative a != negative b) inf ∧ fdiv nan a b = nan ∧
      flt a b = (negative a && !negative b)) ∧
    (isNaN a = true ∨ isNaN b = true → flt a b = false)
end

