-- ==== Sys2Proof/Laws/Cipher.lean ====
section
/-! SUPPORT. The laws of seed derivation and of the keystream: lengths, and what an operation leaves alone. -/

namespace Sys2Proof.Machine

@[simp] theorem warmLane_length (p : IntPrim) (L : Nat) (S : List (Tri Word)) (i : Nat) :
    (warmLane p L S i).length = S.length := by
  simp [warmLane]

@[simp] theorem warmRound_length (p : IntPrim) (L : Nat) (S : List (Tri Word)) :
    (warmRound p L S).length = S.length := by
  have h : ∀ (l : List Nat) (S : List (Tri Word)), (l.foldl (warmLane p L) S).length = S.length := by
    intro l
    induction l with
    | nil => simp
    | cons i l ih => intro S; simp [ih]
  exact h _ S

/-- Rounds of the warm-up keep the number of lanes. -/
theorem warmRounds_length (p : IntPrim) (L n : Nat) (S : List (Tri Word)) :
    ((warmRound p L)^[n] S).length = S.length := by
  induction n generalizing S with
  | zero => rfl
  | succ n ih => rw [Function.iterate_succ_apply, ih, warmRound_length]

/-- DeriveSeeds gives one seed for each active lane (R182 .. R185). -/
@[simp] theorem deriveSeeds_length (p : IntPrim) (T : Tier) (key : Vector Word 8) (iv : Vector Word 4) (n : Nat) :
    (deriveSeeds p T key iv n).length = lanesU T := by
  simp [deriveSeeds, warmRounds_length]

@[simp] theorem laneBytes_length (p : IntPrim) (S : List (Tri Word)) : (laneBytes p S).length = 4 * S.length := by
  induction S with
  | nil => rfl
  | cons a S ih => simp [laneBytes, wordBytes] at ih ⊢; omega

@[simp] theorem tailBytes_length (p : IntPrim) (n : Nat) (t : Tri Word) : (tailBytes p n t).length = n := by
  induction n generalizing t with
  | zero => rfl
  | succ n ih => simp [tailBytes, ih]

@[simp] theorem keystreamFrom_length (p : IntPrim) (nvec m : Nat) (S : List (Tri Word)) :
    (keystreamFrom p nvec m S).length = nvec * (4 * S.length) + m := by
  induction nvec generalizing S with
  | zero => simp [keystreamFrom]
  | succ n ih => simp [keystreamFrom, ih]; ring

/-- Keystream(.., N) has N bytes (R187). -/
@[simp] theorem keystream_length (p : IntPrim) (T : Tier) (key : Vector Word 8) (iv : Vector Word 4) (n N : Nat) :
    (keystream p T key iv n N).length = N := by
  simp only [keystream, keystreamFrom_length, deriveSeeds_length, stride]
  rw [Nat.mul_comm]
  exact Nat.div_add_mod N (4 * lanesU T)

end Sys2Proof.Machine
end

