-- ==== Sys2Proof/Laws/State.lean ====
section
/-! SUPPORT. One lemma per field per update of State, so that no proof unfolds a record update. -/

namespace Sys2Proof.Machine

/-! ### Fields after the issue of a command (10_state R26) -/

@[simp] theorem issue_ie (w : Word) (s : State) : (issue w s).ie = s.ie := rfl
@[simp] theorem issue_done (w : Word) (s : State) : (issue w s).done = false := rfl
@[simp] theorem issue_ign (w : Word) (s : State) : (issue w s).ign = s.ign := rfl
@[simp] theorem issue_err (w : Word) (s : State) : (issue w s).err = .ok := rfl
@[simp] theorem issue_tierUsed (w : Word) (s : State) : (issue w s).tierUsed = s.tierUsed := rfl
@[simp] theorem issue_blkValid (w : Word) (s : State) : (issue w s).blkValid = s.blkValid := rfl
@[simp] theorem issue_inProgress (w : Word) (s : State) : (issue w s).inProgress = some w := rfl
@[simp] theorem issue_addr (w : Word) (s : State) : (issue w s).addr = s.addr := rfl
@[simp] theorem issue_len (w : Word) (s : State) : (issue w s).len = s.len := rfl
@[simp] theorem issue_cnt (w : Word) (s : State) : (issue w s).cnt = s.cnt := rfl
@[simp] theorem issue_keylen (w : Word) (s : State) : (issue w s).keylen = s.keylen := rfl
@[simp] theorem issue_ivlen (w : Word) (s : State) : (issue w s).ivlen = s.ivlen := rfl
@[simp] theorem issue_din (w : Word) (s : State) : (issue w s).din = s.din := rfl
@[simp] theorem issue_dout (w : Word) (s : State) : (issue w s).dout = s.dout := rfl
@[simp] theorem issue_spos (w : Word) (s : State) : (issue w s).spos = s.spos := rfl
@[simp] theorem issue_blkidx (w : Word) (s : State) : (issue w s).blkidx = s.blkidx := rfl
@[simp] theorem issue_erraddr (w : Word) (s : State) : (issue w s).erraddr = s.erraddr := rfl
@[simp] theorem issue_blktag (w : Word) (s : State) : (issue w s).blktag = s.blktag := rfl
@[simp] theorem issue_key (w : Word) (s : State) : (issue w s).key = s.key := rfl
@[simp] theorem issue_iv (w : Word) (s : State) : (issue w s).iv = s.iv := rfl
@[simp] theorem issue_div (w : Word) (s : State) : (issue w s).div = s.div := rfl
@[simp] theorem issue_v0 (w : Word) (s : State) : (issue w s).v0 = s.v0 := rfl
@[simp] theorem issue_v1 (w : Word) (s : State) : (issue w s).v1 = s.v1 := rfl
@[simp] theorem issue_v2 (w : Word) (s : State) : (issue w s).v2 = s.v2 := rfl
@[simp] theorem issue_ks (w : Word) (s : State) : (issue w s).ks = s.ks := rfl
@[simp] theorem issue_blkbuf (w : Word) (s : State) : (issue w s).blkbuf = s.blkbuf := rfl
@[simp] theorem issue_mem (w : Word) (s : State) : (issue w s).mem = s.mem := rfl
@[simp] theorem issue_params (w : Word) (s : State) : (issue w s).params = s.params := rfl
@[simp] theorem issue_agenda (w : Word) (s : State) : (issue w s).agenda = s.agenda := rfl
@[simp] theorem issue_response (w : Word) (s : State) : (issue w s).response = s.response := rfl
@[simp] theorem issue_freeIdx (w : Word) (s : State) : (issue w s).freeIdx = s.freeIdx := rfl

/-! ### Fields after a completion (60_exceptions R255) -/

@[simp] theorem complete_ie (e : ErrCode) (s : State) : (complete e s).ie = s.ie := rfl
@[simp] theorem complete_done (e : ErrCode) (s : State) : (complete e s).done = true := rfl
@[simp] theorem complete_ign (e : ErrCode) (s : State) : (complete e s).ign = s.ign := rfl
@[simp] theorem complete_err (e : ErrCode) (s : State) : (complete e s).err = e := rfl
@[simp] theorem complete_tierUsed (e : ErrCode) (s : State) : (complete e s).tierUsed = s.tierUsed := rfl
@[simp] theorem complete_blkValid (e : ErrCode) (s : State) : (complete e s).blkValid = s.blkValid := rfl
@[simp] theorem complete_inProgress (e : ErrCode) (s : State) : (complete e s).inProgress = none := rfl
@[simp] theorem complete_addr (e : ErrCode) (s : State) : (complete e s).addr = s.addr := rfl
@[simp] theorem complete_len (e : ErrCode) (s : State) : (complete e s).len = s.len := rfl
@[simp] theorem complete_cnt (e : ErrCode) (s : State) : (complete e s).cnt = s.cnt := rfl
@[simp] theorem complete_keylen (e : ErrCode) (s : State) : (complete e s).keylen = s.keylen := rfl
@[simp] theorem complete_ivlen (e : ErrCode) (s : State) : (complete e s).ivlen = s.ivlen := rfl
@[simp] theorem complete_din (e : ErrCode) (s : State) : (complete e s).din = s.din := rfl
@[simp] theorem complete_dout (e : ErrCode) (s : State) : (complete e s).dout = s.dout := rfl
@[simp] theorem complete_spos (e : ErrCode) (s : State) : (complete e s).spos = s.spos := rfl
@[simp] theorem complete_blkidx (e : ErrCode) (s : State) : (complete e s).blkidx = s.blkidx := rfl
@[simp] theorem complete_erraddr (e : ErrCode) (s : State) : (complete e s).erraddr = s.erraddr := rfl
@[simp] theorem complete_blktag (e : ErrCode) (s : State) : (complete e s).blktag = s.blktag := rfl
@[simp] theorem complete_key (e : ErrCode) (s : State) : (complete e s).key = s.key := rfl
@[simp] theorem complete_iv (e : ErrCode) (s : State) : (complete e s).iv = s.iv := rfl
@[simp] theorem complete_div (e : ErrCode) (s : State) : (complete e s).div = s.div := rfl
@[simp] theorem complete_v0 (e : ErrCode) (s : State) : (complete e s).v0 = s.v0 := rfl
@[simp] theorem complete_v1 (e : ErrCode) (s : State) : (complete e s).v1 = s.v1 := rfl
@[simp] theorem complete_v2 (e : ErrCode) (s : State) : (complete e s).v2 = s.v2 := rfl
@[simp] theorem complete_ks (e : ErrCode) (s : State) : (complete e s).ks = s.ks := rfl
@[simp] theorem complete_blkbuf (e : ErrCode) (s : State) : (complete e s).blkbuf = s.blkbuf := rfl
@[simp] theorem complete_mem (e : ErrCode) (s : State) : (complete e s).mem = s.mem := rfl
@[simp] theorem complete_params (e : ErrCode) (s : State) : (complete e s).params = s.params := rfl
@[simp] theorem complete_agenda (e : ErrCode) (s : State) : (complete e s).agenda = s.agenda := rfl
@[simp] theorem complete_response (e : ErrCode) (s : State) : (complete e s).response = s.response := rfl
@[simp] theorem complete_freeIdx (e : ErrCode) (s : State) : (complete e s).freeIdx = s.freeIdx := rfl

/-! ### Fields after a raise (60_exceptions R256) -/

@[simp] theorem raiseError_ie (e : ErrCode) (s : State) : (raiseError e s).ie = s.ie := rfl
@[simp] theorem raiseError_done (e : ErrCode) (s : State) : (raiseError e s).done = true := rfl
@[simp] theorem raiseError_ign (e : ErrCode) (s : State) : (raiseError e s).ign = s.ign := rfl
@[simp] theorem raiseError_err (e : ErrCode) (s : State) : (raiseError e s).err = e := rfl
@[simp] theorem raiseError_tierUsed (e : ErrCode) (s : State) : (raiseError e s).tierUsed = s.tierUsed := rfl
@[simp] theorem raiseError_blkValid (e : ErrCode) (s : State) : (raiseError e s).blkValid = s.blkValid := rfl
@[simp] theorem raiseError_inProgress (e : ErrCode) (s : State) : (raiseError e s).inProgress = none := rfl
@[simp] theorem raiseError_addr (e : ErrCode) (s : State) : (raiseError e s).addr = s.addr := rfl
@[simp] theorem raiseError_len (e : ErrCode) (s : State) : (raiseError e s).len = s.len := rfl
@[simp] theorem raiseError_cnt (e : ErrCode) (s : State) : (raiseError e s).cnt = s.cnt := rfl
@[simp] theorem raiseError_keylen (e : ErrCode) (s : State) : (raiseError e s).keylen = s.keylen := rfl
@[simp] theorem raiseError_ivlen (e : ErrCode) (s : State) : (raiseError e s).ivlen = s.ivlen := rfl
@[simp] theorem raiseError_din (e : ErrCode) (s : State) : (raiseError e s).din = s.din := rfl
@[simp] theorem raiseError_dout (e : ErrCode) (s : State) : (raiseError e s).dout = s.dout := rfl
@[simp] theorem raiseError_spos (e : ErrCode) (s : State) : (raiseError e s).spos = s.spos := rfl
@[simp] theorem raiseError_blkidx (e : ErrCode) (s : State) : (raiseError e s).blkidx = s.blkidx := rfl
@[simp] theorem raiseError_erraddr (e : ErrCode) (s : State) : (raiseError e s).erraddr = s.erraddr := rfl
@[simp] theorem raiseError_blktag (e : ErrCode) (s : State) : (raiseError e s).blktag = s.blktag := rfl
@[simp] theorem raiseError_key (e : ErrCode) (s : State) : (raiseError e s).key = s.key := rfl
@[simp] theorem raiseError_iv (e : ErrCode) (s : State) : (raiseError e s).iv = s.iv := rfl
@[simp] theorem raiseError_div (e : ErrCode) (s : State) : (raiseError e s).div = s.div := rfl
@[simp] theorem raiseError_v0 (e : ErrCode) (s : State) : (raiseError e s).v0 = s.v0 := rfl
@[simp] theorem raiseError_v1 (e : ErrCode) (s : State) : (raiseError e s).v1 = s.v1 := rfl
@[simp] theorem raiseError_v2 (e : ErrCode) (s : State) : (raiseError e s).v2 = s.v2 := rfl
@[simp] theorem raiseError_ks (e : ErrCode) (s : State) : (raiseError e s).ks = s.ks := rfl
@[simp] theorem raiseError_blkbuf (e : ErrCode) (s : State) : (raiseError e s).blkbuf = s.blkbuf := rfl
@[simp] theorem raiseError_mem (e : ErrCode) (s : State) : (raiseError e s).mem = s.mem := rfl
@[simp] theorem raiseError_params (e : ErrCode) (s : State) : (raiseError e s).params = s.params := rfl
@[simp] theorem raiseError_agenda (e : ErrCode) (s : State) : (raiseError e s).agenda = s.agenda := rfl
@[simp] theorem raiseError_response (e : ErrCode) (s : State) : (raiseError e s).response = s.response := rfl
@[simp] theorem raiseError_freeIdx (e : ErrCode) (s : State) : (raiseError e s).freeIdx = s.freeIdx := rfl

/-! ### Fields after an illegal command (30_encoding R89) -/

@[simp] theorem illegalCommand_ie (s : State) : (illegalCommand s).ie = s.ie := rfl
@[simp] theorem illegalCommand_done (s : State) : (illegalCommand s).done = true := rfl
@[simp] theorem illegalCommand_ign (s : State) : (illegalCommand s).ign = s.ign := rfl
@[simp] theorem illegalCommand_err (s : State) : (illegalCommand s).err = .illegalCmd := rfl
@[simp] theorem illegalCommand_tierUsed (s : State) : (illegalCommand s).tierUsed = s.tierUsed := rfl
@[simp] theorem illegalCommand_blkValid (s : State) : (illegalCommand s).blkValid = s.blkValid := rfl
@[simp] theorem illegalCommand_inProgress (s : State) : (illegalCommand s).inProgress = none := rfl
@[simp] theorem illegalCommand_addr (s : State) : (illegalCommand s).addr = s.addr := rfl
@[simp] theorem illegalCommand_len (s : State) : (illegalCommand s).len = s.len := rfl
@[simp] theorem illegalCommand_cnt (s : State) : (illegalCommand s).cnt = s.cnt := rfl
@[simp] theorem illegalCommand_keylen (s : State) : (illegalCommand s).keylen = s.keylen := rfl
@[simp] theorem illegalCommand_ivlen (s : State) : (illegalCommand s).ivlen = s.ivlen := rfl
@[simp] theorem illegalCommand_din (s : State) : (illegalCommand s).din = s.din := rfl
@[simp] theorem illegalCommand_dout (s : State) : (illegalCommand s).dout = s.dout := rfl
@[simp] theorem illegalCommand_spos (s : State) : (illegalCommand s).spos = s.spos := rfl
@[simp] theorem illegalCommand_blkidx (s : State) : (illegalCommand s).blkidx = s.blkidx := rfl
@[simp] theorem illegalCommand_erraddr (s : State) : (illegalCommand s).erraddr = s.erraddr := rfl
@[simp] theorem illegalCommand_blktag (s : State) : (illegalCommand s).blktag = s.blktag := rfl
@[simp] theorem illegalCommand_key (s : State) : (illegalCommand s).key = s.key := rfl
@[simp] theorem illegalCommand_iv (s : State) : (illegalCommand s).iv = s.iv := rfl
@[simp] theorem illegalCommand_div (s : State) : (illegalCommand s).div = s.div := rfl
@[simp] theorem illegalCommand_v0 (s : State) : (illegalCommand s).v0 = s.v0 := rfl
@[simp] theorem illegalCommand_v1 (s : State) : (illegalCommand s).v1 = s.v1 := rfl
@[simp] theorem illegalCommand_v2 (s : State) : (illegalCommand s).v2 = s.v2 := rfl
@[simp] theorem illegalCommand_ks (s : State) : (illegalCommand s).ks = s.ks := rfl
@[simp] theorem illegalCommand_blkbuf (s : State) : (illegalCommand s).blkbuf = s.blkbuf := rfl
@[simp] theorem illegalCommand_mem (s : State) : (illegalCommand s).mem = s.mem := rfl
@[simp] theorem illegalCommand_params (s : State) : (illegalCommand s).params = s.params := rfl
@[simp] theorem illegalCommand_agenda (s : State) : (illegalCommand s).agenda = s.agenda := rfl
@[simp] theorem illegalCommand_response (s : State) : (illegalCommand s).response = s.response := rfl
@[simp] theorem illegalCommand_freeIdx (s : State) : (illegalCommand s).freeIdx = s.freeIdx := rfl

/-! ### Fields after an access fault (60_exceptions R256) -/

@[simp] theorem raiseAccessFault_ie (a : Nat) (s : State) : (raiseAccessFault a s).ie = s.ie := rfl
@[simp] theorem raiseAccessFault_done (a : Nat) (s : State) : (raiseAccessFault a s).done = true := rfl
@[simp] theorem raiseAccessFault_ign (a : Nat) (s : State) : (raiseAccessFault a s).ign = s.ign := rfl
@[simp] theorem raiseAccessFault_err (a : Nat) (s : State) : (raiseAccessFault a s).err = .accessFault := rfl
@[simp] theorem raiseAccessFault_tierUsed (a : Nat) (s : State) : (raiseAccessFault a s).tierUsed = s.tierUsed := rfl
@[simp] theorem raiseAccessFault_blkValid (a : Nat) (s : State) : (raiseAccessFault a s).blkValid = s.blkValid := rfl
@[simp] theorem raiseAccessFault_inProgress (a : Nat) (s : State) : (raiseAccessFault a s).inProgress = none := rfl
@[simp] theorem raiseAccessFault_addr (a : Nat) (s : State) : (raiseAccessFault a s).addr = s.addr := rfl
@[simp] theorem raiseAccessFault_len (a : Nat) (s : State) : (raiseAccessFault a s).len = s.len := rfl
@[simp] theorem raiseAccessFault_cnt (a : Nat) (s : State) : (raiseAccessFault a s).cnt = s.cnt := rfl
@[simp] theorem raiseAccessFault_keylen (a : Nat) (s : State) : (raiseAccessFault a s).keylen = s.keylen := rfl
@[simp] theorem raiseAccessFault_ivlen (a : Nat) (s : State) : (raiseAccessFault a s).ivlen = s.ivlen := rfl
@[simp] theorem raiseAccessFault_din (a : Nat) (s : State) : (raiseAccessFault a s).din = s.din := rfl
@[simp] theorem raiseAccessFault_dout (a : Nat) (s : State) : (raiseAccessFault a s).dout = s.dout := rfl
@[simp] theorem raiseAccessFault_spos (a : Nat) (s : State) : (raiseAccessFault a s).spos = s.spos := rfl
@[simp] theorem raiseAccessFault_blkidx (a : Nat) (s : State) : (raiseAccessFault a s).blkidx = s.blkidx := rfl
@[simp] theorem raiseAccessFault_erraddr (a : Nat) (s : State) : (raiseAccessFault a s).erraddr = BitVec.ofNat 32 a := rfl
@[simp] theorem raiseAccessFault_blktag (a : Nat) (s : State) : (raiseAccessFault a s).blktag = s.blktag := rfl
@[simp] theorem raiseAccessFault_key (a : Nat) (s : State) : (raiseAccessFault a s).key = s.key := rfl
@[simp] theorem raiseAccessFault_iv (a : Nat) (s : State) : (raiseAccessFault a s).iv = s.iv := rfl
@[simp] theorem raiseAccessFault_div (a : Nat) (s : State) : (raiseAccessFault a s).div = s.div := rfl
@[simp] theorem raiseAccessFault_v0 (a : Nat) (s : State) : (raiseAccessFault a s).v0 = s.v0 := rfl
@[simp] theorem raiseAccessFault_v1 (a : Nat) (s : State) : (raiseAccessFault a s).v1 = s.v1 := rfl
@[simp] theorem raiseAccessFault_v2 (a : Nat) (s : State) : (raiseAccessFault a s).v2 = s.v2 := rfl
@[simp] theorem raiseAccessFault_ks (a : Nat) (s : State) : (raiseAccessFault a s).ks = s.ks := rfl
@[simp] theorem raiseAccessFault_blkbuf (a : Nat) (s : State) : (raiseAccessFault a s).blkbuf = s.blkbuf := rfl
@[simp] theorem raiseAccessFault_mem (a : Nat) (s : State) : (raiseAccessFault a s).mem = s.mem := rfl
@[simp] theorem raiseAccessFault_params (a : Nat) (s : State) : (raiseAccessFault a s).params = s.params := rfl
@[simp] theorem raiseAccessFault_agenda (a : Nat) (s : State) : (raiseAccessFault a s).agenda = s.agenda := rfl
@[simp] theorem raiseAccessFault_response (a : Nat) (s : State) : (raiseAccessFault a s).response = s.response := rfl
@[simp] theorem raiseAccessFault_freeIdx (a : Nat) (s : State) : (raiseAccessFault a s).freeIdx = s.freeIdx := rfl

/-! ### Fields after a success that used a tier (10_state R25) -/

@[simp] theorem completeAtTier_ie (T : Tier) (s : State) : (completeAtTier T s).ie = s.ie := rfl
@[simp] theorem completeAtTier_done (T : Tier) (s : State) : (completeAtTier T s).done = true := rfl
@[simp] theorem completeAtTier_ign (T : Tier) (s : State) : (completeAtTier T s).ign = s.ign := rfl
@[simp] theorem completeAtTier_err (T : Tier) (s : State) : (completeAtTier T s).err = .ok := rfl
@[simp] theorem completeAtTier_tierUsed (T : Tier) (s : State) : (completeAtTier T s).tierUsed = some T := rfl
@[simp] theorem completeAtTier_blkValid (T : Tier) (s : State) : (completeAtTier T s).blkValid = s.blkValid := rfl
@[simp] theorem completeAtTier_inProgress (T : Tier) (s : State) : (completeAtTier T s).inProgress = none := rfl
@[simp] theorem completeAtTier_addr (T : Tier) (s : State) : (completeAtTier T s).addr = s.addr := rfl
@[simp] theorem completeAtTier_len (T : Tier) (s : State) : (completeAtTier T s).len = s.len := rfl
@[simp] theorem completeAtTier_cnt (T : Tier) (s : State) : (completeAtTier T s).cnt = s.cnt := rfl
@[simp] theorem completeAtTier_keylen (T : Tier) (s : State) : (completeAtTier T s).keylen = s.keylen := rfl
@[simp] theorem completeAtTier_ivlen (T : Tier) (s : State) : (completeAtTier T s).ivlen = s.ivlen := rfl
@[simp] theorem completeAtTier_din (T : Tier) (s : State) : (completeAtTier T s).din = s.din := rfl
@[simp] theorem completeAtTier_dout (T : Tier) (s : State) : (completeAtTier T s).dout = s.dout := rfl
@[simp] theorem completeAtTier_spos (T : Tier) (s : State) : (completeAtTier T s).spos = s.spos := rfl
@[simp] theorem completeAtTier_blkidx (T : Tier) (s : State) : (completeAtTier T s).blkidx = s.blkidx := rfl
@[simp] theorem completeAtTier_erraddr (T : Tier) (s : State) : (completeAtTier T s).erraddr = s.erraddr := rfl
@[simp] theorem completeAtTier_blktag (T : Tier) (s : State) : (completeAtTier T s).blktag = s.blktag := rfl
@[simp] theorem completeAtTier_key (T : Tier) (s : State) : (completeAtTier T s).key = s.key := rfl
@[simp] theorem completeAtTier_iv (T : Tier) (s : State) : (completeAtTier T s).iv = s.iv := rfl
@[simp] theorem completeAtTier_div (T : Tier) (s : State) : (completeAtTier T s).div = s.div := rfl
@[simp] theorem completeAtTier_v0 (T : Tier) (s : State) : (completeAtTier T s).v0 = s.v0 := rfl
@[simp] theorem completeAtTier_v1 (T : Tier) (s : State) : (completeAtTier T s).v1 = s.v1 := rfl
@[simp] theorem completeAtTier_v2 (T : Tier) (s : State) : (completeAtTier T s).v2 = s.v2 := rfl
@[simp] theorem completeAtTier_ks (T : Tier) (s : State) : (completeAtTier T s).ks = s.ks := rfl
@[simp] theorem completeAtTier_blkbuf (T : Tier) (s : State) : (completeAtTier T s).blkbuf = s.blkbuf := rfl
@[simp] theorem completeAtTier_mem (T : Tier) (s : State) : (completeAtTier T s).mem = s.mem := rfl
@[simp] theorem completeAtTier_params (T : Tier) (s : State) : (completeAtTier T s).params = s.params := rfl
@[simp] theorem completeAtTier_agenda (T : Tier) (s : State) : (completeAtTier T s).agenda = s.agenda := rfl
@[simp] theorem completeAtTier_response (T : Tier) (s : State) : (completeAtTier T s).response = s.response := rfl
@[simp] theorem completeAtTier_freeIdx (T : Tier) (s : State) : (completeAtTier T s).freeIdx = s.freeIdx := rfl

/-! ### Fields after a new lane state file (10_state R41) -/

@[simp] theorem withLaneFile_ie (W : LaneFile) (s : State) : (withLaneFile W s).ie = s.ie := rfl
@[simp] theorem withLaneFile_done (W : LaneFile) (s : State) : (withLaneFile W s).done = s.done := rfl
@[simp] theorem withLaneFile_ign (W : LaneFile) (s : State) : (withLaneFile W s).ign = s.ign := rfl
@[simp] theorem withLaneFile_err (W : LaneFile) (s : State) : (withLaneFile W s).err = s.err := rfl
@[simp] theorem withLaneFile_tierUsed (W : LaneFile) (s : State) : (withLaneFile W s).tierUsed = s.tierUsed := rfl
@[simp] theorem withLaneFile_blkValid (W : LaneFile) (s : State) : (withLaneFile W s).blkValid = s.blkValid := rfl
@[simp] theorem withLaneFile_inProgress (W : LaneFile) (s : State) : (withLaneFile W s).inProgress = s.inProgress := rfl
@[simp] theorem withLaneFile_addr (W : LaneFile) (s : State) : (withLaneFile W s).addr = s.addr := rfl
@[simp] theorem withLaneFile_len (W : LaneFile) (s : State) : (withLaneFile W s).len = s.len := rfl
@[simp] theorem withLaneFile_cnt (W : LaneFile) (s : State) : (withLaneFile W s).cnt = s.cnt := rfl
@[simp] theorem withLaneFile_keylen (W : LaneFile) (s : State) : (withLaneFile W s).keylen = s.keylen := rfl
@[simp] theorem withLaneFile_ivlen (W : LaneFile) (s : State) : (withLaneFile W s).ivlen = s.ivlen := rfl
@[simp] theorem withLaneFile_din (W : LaneFile) (s : State) : (withLaneFile W s).din = s.din := rfl
@[simp] theorem withLaneFile_dout (W : LaneFile) (s : State) : (withLaneFile W s).dout = s.dout := rfl
@[simp] theorem withLaneFile_spos (W : LaneFile) (s : State) : (withLaneFile W s).spos = s.spos := rfl
@[simp] theorem withLaneFile_blkidx (W : LaneFile) (s : State) : (withLaneFile W s).blkidx = s.blkidx := rfl
@[simp] theorem withLaneFile_erraddr (W : LaneFile) (s : State) : (withLaneFile W s).erraddr = s.erraddr := rfl
@[simp] theorem withLaneFile_blktag (W : LaneFile) (s : State) : (withLaneFile W s).blktag = s.blktag := rfl
@[simp] theorem withLaneFile_key (W : LaneFile) (s : State) : (withLaneFile W s).key = s.key := rfl
@[simp] theorem withLaneFile_iv (W : LaneFile) (s : State) : (withLaneFile W s).iv = s.iv := rfl
@[simp] theorem withLaneFile_div (W : LaneFile) (s : State) : (withLaneFile W s).div = s.div := rfl
@[simp] theorem withLaneFile_v0 (W : LaneFile) (s : State) : (withLaneFile W s).v0 = W.x := rfl
@[simp] theorem withLaneFile_v1 (W : LaneFile) (s : State) : (withLaneFile W s).v1 = W.y := rfl
@[simp] theorem withLaneFile_v2 (W : LaneFile) (s : State) : (withLaneFile W s).v2 = W.z := rfl
@[simp] theorem withLaneFile_ks (W : LaneFile) (s : State) : (withLaneFile W s).ks = s.ks := rfl
@[simp] theorem withLaneFile_blkbuf (W : LaneFile) (s : State) : (withLaneFile W s).blkbuf = s.blkbuf := rfl
@[simp] theorem withLaneFile_mem (W : LaneFile) (s : State) : (withLaneFile W s).mem = s.mem := rfl
@[simp] theorem withLaneFile_params (W : LaneFile) (s : State) : (withLaneFile W s).params = s.params := rfl
@[simp] theorem withLaneFile_agenda (W : LaneFile) (s : State) : (withLaneFile W s).agenda = s.agenda := rfl
@[simp] theorem withLaneFile_response (W : LaneFile) (s : State) : (withLaneFile W s).response = s.response := rfl
@[simp] theorem withLaneFile_freeIdx (W : LaneFile) (s : State) : (withLaneFile W s).freeIdx = s.freeIdx := rfl

/-! ### Fields after a regeneration of the block cache (44_stream R225) -/

@[simp] theorem regenerate_ie (b : DWord) (p : IntPrim) (T : Tier) (s : State) : (regenerate b p T s).ie = s.ie := rfl
@[simp] theorem regenerate_done (b : DWord) (p : IntPrim) (T : Tier) (s : State) : (regenerate b p T s).done = s.done := rfl
@[simp] theorem regenerate_ign (b : DWord) (p : IntPrim) (T : Tier) (s : State) : (regenerate b p T s).ign = s.ign := rfl
@[simp] theorem regenerate_err (b : DWord) (p : IntPrim) (T : Tier) (s : State) : (regenerate b p T s).err = s.err := rfl
@[simp] theorem regenerate_tierUsed (b : DWord) (p : IntPrim) (T : Tier) (s : State) : (regenerate b p T s).tierUsed = s.tierUsed := rfl
@[simp] theorem regenerate_blkValid (b : DWord) (p : IntPrim) (T : Tier) (s : State) : (regenerate b p T s).blkValid = true := rfl
@[simp] theorem regenerate_inProgress (b : DWord) (p : IntPrim) (T : Tier) (s : State) : (regenerate b p T s).inProgress = s.inProgress := rfl
@[simp] theorem regenerate_addr (b : DWord) (p : IntPrim) (T : Tier) (s : State) : (regenerate b p T s).addr = s.addr := rfl
@[simp] theorem regenerate_len (b : DWord) (p : IntPrim) (T : Tier) (s : State) : (regenerate b p T s).len = s.len := rfl
@[simp] theorem regenerate_cnt (b : DWord) (p : IntPrim) (T : Tier) (s : State) : (regenerate b p T s).cnt = s.cnt := rfl
@[simp] theorem regenerate_keylen (b : DWord) (p : IntPrim) (T : Tier) (s : State) : (regenerate b p T s).keylen = s.keylen := rfl
@[simp] theorem regenerate_ivlen (b : DWord) (p : IntPrim) (T : Tier) (s : State) : (regenerate b p T s).ivlen = s.ivlen := rfl
@[simp] theorem regenerate_din (b : DWord) (p : IntPrim) (T : Tier) (s : State) : (regenerate b p T s).din = s.din := rfl
@[simp] theorem regenerate_dout (b : DWord) (p : IntPrim) (T : Tier) (s : State) : (regenerate b p T s).dout = s.dout := rfl
@[simp] theorem regenerate_spos (b : DWord) (p : IntPrim) (T : Tier) (s : State) : (regenerate b p T s).spos = s.spos := rfl
@[simp] theorem regenerate_blkidx (b : DWord) (p : IntPrim) (T : Tier) (s : State) : (regenerate b p T s).blkidx = b := rfl
@[simp] theorem regenerate_erraddr (b : DWord) (p : IntPrim) (T : Tier) (s : State) : (regenerate b p T s).erraddr = s.erraddr := rfl
@[simp] theorem regenerate_blktag (b : DWord) (p : IntPrim) (T : Tier) (s : State) : (regenerate b p T s).blktag = blockTag p T := rfl
@[simp] theorem regenerate_key (b : DWord) (p : IntPrim) (T : Tier) (s : State) : (regenerate b p T s).key = s.key := rfl
@[simp] theorem regenerate_iv (b : DWord) (p : IntPrim) (T : Tier) (s : State) : (regenerate b p T s).iv = s.iv := rfl
@[simp] theorem regenerate_div (b : DWord) (p : IntPrim) (T : Tier) (s : State) : (regenerate b p T s).div = deriveIv s.iv b := rfl
@[simp] theorem regenerate_v0 (b : DWord) (p : IntPrim) (T : Tier) (s : State) : (regenerate b p T s).v0 = s.v0 := rfl
@[simp] theorem regenerate_v1 (b : DWord) (p : IntPrim) (T : Tier) (s : State) : (regenerate b p T s).v1 = s.v1 := rfl
@[simp] theorem regenerate_v2 (b : DWord) (p : IntPrim) (T : Tier) (s : State) : (regenerate b p T s).v2 = s.v2 := rfl
@[simp] theorem regenerate_ks (b : DWord) (p : IntPrim) (T : Tier) (s : State) : (regenerate b p T s).ks = s.ks := rfl
@[simp] theorem regenerate_blkbuf (b : DWord) (p : IntPrim) (T : Tier) (s : State) : (regenerate b p T s).blkbuf = block p T s.key s.iv b := rfl
@[simp] theorem regenerate_mem (b : DWord) (p : IntPrim) (T : Tier) (s : State) : (regenerate b p T s).mem = s.mem := rfl
@[simp] theorem regenerate_params (b : DWord) (p : IntPrim) (T : Tier) (s : State) : (regenerate b p T s).params = s.params := rfl
@[simp] theorem regenerate_agenda (b : DWord) (p : IntPrim) (T : Tier) (s : State) : (regenerate b p T s).agenda = s.agenda := rfl
@[simp] theorem regenerate_response (b : DWord) (p : IntPrim) (T : Tier) (s : State) : (regenerate b p T s).response = s.response := rfl
@[simp] theorem regenerate_freeIdx (b : DWord) (p : IntPrim) (T : Tier) (s : State) : (regenerate b p T s).freeIdx = s.freeIdx := rfl

/-! ### Fields after an invalidation of the block cache (10_state R48) -/

@[simp] theorem invalidateBlock_ie (s : State) : (invalidateBlock s).ie = s.ie := rfl
@[simp] theorem invalidateBlock_done (s : State) : (invalidateBlock s).done = s.done := rfl
@[simp] theorem invalidateBlock_ign (s : State) : (invalidateBlock s).ign = s.ign := rfl
@[simp] theorem invalidateBlock_err (s : State) : (invalidateBlock s).err = s.err := rfl
@[simp] theorem invalidateBlock_tierUsed (s : State) : (invalidateBlock s).tierUsed = s.tierUsed := rfl
@[simp] theorem invalidateBlock_blkValid (s : State) : (invalidateBlock s).blkValid = false := rfl
@[simp] theorem invalidateBlock_inProgress (s : State) : (invalidateBlock s).inProgress = s.inProgress := rfl
@[simp] theorem invalidateBlock_addr (s : State) : (invalidateBlock s).addr = s.addr := rfl
@[simp] theorem invalidateBlock_len (s : State) : (invalidateBlock s).len = s.len := rfl
@[simp] theorem invalidateBlock_cnt (s : State) : (invalidateBlock s).cnt = s.cnt := rfl
@[simp] theorem invalidateBlock_keylen (s : State) : (invalidateBlock s).keylen = s.keylen := rfl
@[simp] theorem invalidateBlock_ivlen (s : State) : (invalidateBlock s).ivlen = s.ivlen := rfl
@[simp] theorem invalidateBlock_din (s : State) : (invalidateBlock s).din = s.din := rfl
@[simp] theorem invalidateBlock_dout (s : State) : (invalidateBlock s).dout = s.dout := rfl
@[simp] theorem invalidateBlock_spos (s : State) : (invalidateBlock s).spos = s.spos := rfl
@[simp] theorem invalidateBlock_blkidx (s : State) : (invalidateBlock s).blkidx = s.blkidx := rfl
@[simp] theorem invalidateBlock_erraddr (s : State) : (invalidateBlock s).erraddr = s.erraddr := rfl
@[simp] theorem invalidateBlock_blktag (s : State) : (invalidateBlock s).blktag = s.blktag := rfl
@[simp] theorem invalidateBlock_key (s : State) : (invalidateBlock s).key = s.key := rfl
@[simp] theorem invalidateBlock_iv (s : State) : (invalidateBlock s).iv = s.iv := rfl
@[simp] theorem invalidateBlock_div (s : State) : (invalidateBlock s).div = s.div := rfl
@[simp] theorem invalidateBlock_v0 (s : State) : (invalidateBlock s).v0 = s.v0 := rfl
@[simp] theorem invalidateBlock_v1 (s : State) : (invalidateBlock s).v1 = s.v1 := rfl
@[simp] theorem invalidateBlock_v2 (s : State) : (invalidateBlock s).v2 = s.v2 := rfl
@[simp] theorem invalidateBlock_ks (s : State) : (invalidateBlock s).ks = s.ks := rfl
@[simp] theorem invalidateBlock_blkbuf (s : State) : (invalidateBlock s).blkbuf = s.blkbuf := rfl
@[simp] theorem invalidateBlock_mem (s : State) : (invalidateBlock s).mem = s.mem := rfl
@[simp] theorem invalidateBlock_params (s : State) : (invalidateBlock s).params = s.params := rfl
@[simp] theorem invalidateBlock_agenda (s : State) : (invalidateBlock s).agenda = s.agenda := rfl
@[simp] theorem invalidateBlock_response (s : State) : (invalidateBlock s).response = s.response := rfl
@[simp] theorem invalidateBlock_freeIdx (s : State) : (invalidateBlock s).freeIdx = s.freeIdx := rfl

/-! ### Fields after a write to STATUS (10_state R25) -/

@[simp] theorem writeStatus_ie (v : Word) (s : State) : (writeStatus v s).ie = s.ie := rfl
@[simp] theorem writeStatus_done (v : Word) (s : State) : (writeStatus v s).done = (s.done && !v.getLsbD 1) := rfl
@[simp] theorem writeStatus_ign (v : Word) (s : State) : (writeStatus v s).ign = (s.ign && !v.getLsbD 2) := rfl
@[simp] theorem writeStatus_err (v : Word) (s : State) : (writeStatus v s).err = s.err := rfl
@[simp] theorem writeStatus_tierUsed (v : Word) (s : State) : (writeStatus v s).tierUsed = s.tierUsed := rfl
@[simp] theorem writeStatus_blkValid (v : Word) (s : State) : (writeStatus v s).blkValid = s.blkValid := rfl
@[simp] theorem writeStatus_inProgress (v : Word) (s : State) : (writeStatus v s).inProgress = s.inProgress := rfl
@[simp] theorem writeStatus_addr (v : Word) (s : State) : (writeStatus v s).addr = s.addr := rfl
@[simp] theorem writeStatus_len (v : Word) (s : State) : (writeStatus v s).len = s.len := rfl
@[simp] theorem writeStatus_cnt (v : Word) (s : State) : (writeStatus v s).cnt = s.cnt := rfl
@[simp] theorem writeStatus_keylen (v : Word) (s : State) : (writeStatus v s).keylen = s.keylen := rfl
@[simp] theorem writeStatus_ivlen (v : Word) (s : State) : (writeStatus v s).ivlen = s.ivlen := rfl
@[simp] theorem writeStatus_din (v : Word) (s : State) : (writeStatus v s).din = s.din := rfl
@[simp] theorem writeStatus_dout (v : Word) (s : State) : (writeStatus v s).dout = s.dout := rfl
@[simp] theorem writeStatus_spos (v : Word) (s : State) : (writeStatus v s).spos = s.spos := rfl
@[simp] theorem writeStatus_blkidx (v : Word) (s : State) : (writeStatus v s).blkidx = s.blkidx := rfl
@[simp] theorem writeStatus_erraddr (v : Word) (s : State) : (writeStatus v s).erraddr = s.erraddr := rfl
@[simp] theorem writeStatus_blktag (v : Word) (s : State) : (writeStatus v s).blktag = s.blktag := rfl
@[simp] theorem writeStatus_key (v : Word) (s : State) : (writeStatus v s).key = s.key := rfl
@[simp] theorem writeStatus_iv (v : Word) (s : State) : (writeStatus v s).iv = s.iv := rfl
@[simp] theorem writeStatus_div (v : Word) (s : State) : (writeStatus v s).div = s.div := rfl
@[simp] theorem writeStatus_v0 (v : Word) (s : State) : (writeStatus v s).v0 = s.v0 := rfl
@[simp] theorem writeStatus_v1 (v : Word) (s : State) : (writeStatus v s).v1 = s.v1 := rfl
@[simp] theorem writeStatus_v2 (v : Word) (s : State) : (writeStatus v s).v2 = s.v2 := rfl
@[simp] theorem writeStatus_ks (v : Word) (s : State) : (writeStatus v s).ks = s.ks := rfl
@[simp] theorem writeStatus_blkbuf (v : Word) (s : State) : (writeStatus v s).blkbuf = s.blkbuf := rfl
@[simp] theorem writeStatus_mem (v : Word) (s : State) : (writeStatus v s).mem = s.mem := rfl
@[simp] theorem writeStatus_params (v : Word) (s : State) : (writeStatus v s).params = s.params := rfl
@[simp] theorem writeStatus_agenda (v : Word) (s : State) : (writeStatus v s).agenda = s.agenda := rfl
@[simp] theorem writeStatus_response (v : Word) (s : State) : (writeStatus v s).response = s.response := rfl
@[simp] theorem writeStatus_freeIdx (v : Word) (s : State) : (writeStatus v s).freeIdx = s.freeIdx := rfl

/-! ### Fields after reset (70_reset R280, R282) -/

@[simp] theorem assertReset_ie (s : State) : (assertReset s).ie = State.reset.ie := rfl
@[simp] theorem assertReset_done (s : State) : (assertReset s).done = State.reset.done := rfl
@[simp] theorem assertReset_ign (s : State) : (assertReset s).ign = State.reset.ign := rfl
@[simp] theorem assertReset_err (s : State) : (assertReset s).err = State.reset.err := rfl
@[simp] theorem assertReset_tierUsed (s : State) : (assertReset s).tierUsed = State.reset.tierUsed := rfl
@[simp] theorem assertReset_blkValid (s : State) : (assertReset s).blkValid = State.reset.blkValid := rfl
@[simp] theorem assertReset_inProgress (s : State) : (assertReset s).inProgress = State.reset.inProgress := rfl
@[simp] theorem assertReset_addr (s : State) : (assertReset s).addr = State.reset.addr := rfl
@[simp] theorem assertReset_len (s : State) : (assertReset s).len = State.reset.len := rfl
@[simp] theorem assertReset_cnt (s : State) : (assertReset s).cnt = State.reset.cnt := rfl
@[simp] theorem assertReset_keylen (s : State) : (assertReset s).keylen = State.reset.keylen := rfl
@[simp] theorem assertReset_ivlen (s : State) : (assertReset s).ivlen = State.reset.ivlen := rfl
@[simp] theorem assertReset_din (s : State) : (assertReset s).din = State.reset.din := rfl
@[simp] theorem assertReset_dout (s : State) : (assertReset s).dout = State.reset.dout := rfl
@[simp] theorem assertReset_spos (s : State) : (assertReset s).spos = State.reset.spos := rfl
@[simp] theorem assertReset_blkidx (s : State) : (assertReset s).blkidx = State.reset.blkidx := rfl
@[simp] theorem assertReset_erraddr (s : State) : (assertReset s).erraddr = State.reset.erraddr := rfl
@[simp] theorem assertReset_blktag (s : State) : (assertReset s).blktag = State.reset.blktag := rfl
@[simp] theorem assertReset_key (s : State) : (assertReset s).key = State.reset.key := rfl
@[simp] theorem assertReset_iv (s : State) : (assertReset s).iv = State.reset.iv := rfl
@[simp] theorem assertReset_div (s : State) : (assertReset s).div = State.reset.div := rfl
@[simp] theorem assertReset_v0 (s : State) : (assertReset s).v0 = State.reset.v0 := rfl
@[simp] theorem assertReset_v1 (s : State) : (assertReset s).v1 = State.reset.v1 := rfl
@[simp] theorem assertReset_v2 (s : State) : (assertReset s).v2 = State.reset.v2 := rfl
@[simp] theorem assertReset_ks (s : State) : (assertReset s).ks = State.reset.ks := rfl
@[simp] theorem assertReset_blkbuf (s : State) : (assertReset s).blkbuf = State.reset.blkbuf := rfl
@[simp] theorem assertReset_mem (s : State) : (assertReset s).mem = memAfterReset s := rfl
@[simp] theorem assertReset_params (s : State) : (assertReset s).params = s.params := rfl
@[simp] theorem assertReset_agenda (s : State) : (assertReset s).agenda = s.agenda := rfl
@[simp] theorem assertReset_response (s : State) : (assertReset s).response = s.response := rfl
@[simp] theorem assertReset_freeIdx (s : State) : (assertReset s).freeIdx = s.freeIdx + 1 := rfl

/-! ### Fields of the state after reset (70_reset R280) -/

@[simp] theorem reset_ie : State.reset.ie = false := rfl
@[simp] theorem reset_done : State.reset.done = false := rfl
@[simp] theorem reset_ign : State.reset.ign = false := rfl
@[simp] theorem reset_err : State.reset.err = .ok := rfl
@[simp] theorem reset_tierUsed : State.reset.tierUsed = none := rfl
@[simp] theorem reset_blkValid : State.reset.blkValid = false := rfl
@[simp] theorem reset_inProgress : State.reset.inProgress = none := rfl
@[simp] theorem reset_addr : State.reset.addr = 0 := rfl
@[simp] theorem reset_len : State.reset.len = 0 := rfl
@[simp] theorem reset_cnt : State.reset.cnt = 0 := rfl
@[simp] theorem reset_keylen : State.reset.keylen = 0 := rfl
@[simp] theorem reset_ivlen : State.reset.ivlen = 0 := rfl
@[simp] theorem reset_din : State.reset.din = 0 := rfl
@[simp] theorem reset_dout : State.reset.dout = 0 := rfl
@[simp] theorem reset_spos : State.reset.spos = 0 := rfl
@[simp] theorem reset_blkidx : State.reset.blkidx = 0 := rfl
@[simp] theorem reset_erraddr : State.reset.erraddr = 0 := rfl
@[simp] theorem reset_blktag : State.reset.blktag = 0 := rfl
@[simp] theorem reset_key : State.reset.key = Vector.replicate 8 0 := rfl
@[simp] theorem reset_iv : State.reset.iv = Vector.replicate 4 0 := rfl
@[simp] theorem reset_div : State.reset.div = Vector.replicate 4 0 := rfl
@[simp] theorem reset_v0 : State.reset.v0 = Vector.replicate 16 0 := rfl
@[simp] theorem reset_v1 : State.reset.v1 = Vector.replicate 16 0 := rfl
@[simp] theorem reset_v2 : State.reset.v2 = Vector.replicate 16 0 := rfl
@[simp] theorem reset_ks : State.reset.ks = Vector.replicate 16 0 := rfl
@[simp] theorem reset_blkbuf_length : State.reset.blkbuf.length = blockSize := by
  show (List.replicate 4096 (0 : Byte)).length = 4096
  exact List.length_replicate
@[simp] theorem reset_mem : State.reset.mem = [] := rfl
@[simp] theorem reset_params : State.reset.params = Config.params := rfl
@[simp] theorem reset_agenda : State.reset.agenda = [] := rfl
@[simp] theorem reset_response : State.reset.response = .none := rfl
@[simp] theorem reset_freeIdx : State.reset.freeIdx = 0 := rfl

end Sys2Proof.Machine
end

