-- ==== Sys2Proof/Laws/Commands.lean ====
section
/-! SUPPORT. What a step, a command and each shared meaning can do, said once: the lemmas to cite in place of unfolding
`step`, `exec` and the meanings. -/

namespace Sys2Proof.Machine

/-! ### The commands by family -/

/-- Every command is one of the four plain ones or a member of one of the six families (R91). -/
theorem instr_cases (i : Instr) :
    i = .nop ∨ i = .mix ∨ i = .ivder ∨ i = .sinval ∨ (∃ t p, i = ksgenOf t p) ∨ (∃ t p, i = stepIntOf t p) ∨
      (∃ t p, i = stepFloatOf t p) ∨ (∃ t p, i = deriveOf t p) ∨ (∃ t p, i = processOf t p) ∨ (∃ t p, i = sapplyOf t p) := by
  cases i <;> simp [ksgenOf, stepIntOf, stepFloatOf, deriveOf, processOf, sapplyOf]
  case ksgenItent t => exact .inl ⟨t, .itent, rfl⟩
  case ksgenIlog t => exact .inl ⟨t, .ilog, rfl⟩
  case ksgenIsine t => exact .inl ⟨t, .isine, rfl⟩
  case ksgenIhenon t => exact .inl ⟨t, .ihenon, rfl⟩
  case ksgenIlorenz t => exact .inl ⟨t, .ilorenz, rfl⟩
  case ksgenIchen t => exact .inl ⟨t, .ichen, rfl⟩
  case stepItent t => exact .inr (.inl ⟨t, .itent, rfl⟩)
  case stepIlog t => exact .inr (.inl ⟨t, .ilog, rfl⟩)
  case stepIsine t => exact .inr (.inl ⟨t, .isine, rfl⟩)
  case stepIhenon t => exact .inr (.inl ⟨t, .ihenon, rfl⟩)
  case stepIlorenz t => exact .inr (.inl ⟨t, .ilorenz, rfl⟩)
  case stepIchen t => exact .inr (.inl ⟨t, .ichen, rfl⟩)
  case stepFlog t => exact .inr (.inr (.inl ⟨t, .flog, rfl⟩))
  case stepFtent t => exact .inr (.inr (.inl ⟨t, .ftent, rfl⟩))
  case stepFsine t => exact .inr (.inr (.inl ⟨t, .fsine, rfl⟩))
  case stepFhenon t => exact .inr (.inr (.inl ⟨t, .fhenon, rfl⟩))
  case stepFlorenz t => exact .inr (.inr (.inl ⟨t, .florenz, rfl⟩))
  case stepFchen t => exact .inr (.inr (.inl ⟨t, .fchen, rfl⟩))
  case deriveItent t => exact .inr (.inr (.inr (.inl ⟨t, .itent, rfl⟩)))
  case deriveIlog t => exact .inr (.inr (.inr (.inl ⟨t, .ilog, rfl⟩)))
  case deriveIsine t => exact .inr (.inr (.inr (.inl ⟨t, .isine, rfl⟩)))
  case deriveIhenon t => exact .inr (.inr (.inr (.inl ⟨t, .ihenon, rfl⟩)))
  case deriveIlorenz t => exact .inr (.inr (.inr (.inl ⟨t, .ilorenz, rfl⟩)))
  case deriveIchen t => exact .inr (.inr (.inr (.inl ⟨t, .ichen, rfl⟩)))
  case processItent t => exact .inr (.inr (.inr (.inr (.inl ⟨t, .itent, rfl⟩))))
  case processIlog t => exact .inr (.inr (.inr (.inr (.inl ⟨t, .ilog, rfl⟩))))
  case processIsine t => exact .inr (.inr (.inr (.inr (.inl ⟨t, .isine, rfl⟩))))
  case processIhenon t => exact .inr (.inr (.inr (.inr (.inl ⟨t, .ihenon, rfl⟩))))
  case processIlorenz t => exact .inr (.inr (.inr (.inr (.inl ⟨t, .ilorenz, rfl⟩))))
  case processIchen t => exact .inr (.inr (.inr (.inr (.inl ⟨t, .ichen, rfl⟩))))
  case sapplyItent t => exact .inr (.inr (.inr (.inr (.inr ⟨t, .itent, rfl⟩))))
  case sapplyIlog t => exact .inr (.inr (.inr (.inr (.inr ⟨t, .ilog, rfl⟩))))
  case sapplyIsine t => exact .inr (.inr (.inr (.inr (.inr ⟨t, .isine, rfl⟩))))
  case sapplyIhenon t => exact .inr (.inr (.inr (.inr (.inr ⟨t, .ihenon, rfl⟩))))
  case sapplyIlorenz t => exact .inr (.inr (.inr (.inr (.inr ⟨t, .ilorenz, rfl⟩))))
  case sapplyIchen t => exact .inr (.inr (.inr (.inr (.inr ⟨t, .ichen, rfl⟩))))

@[simp] theorem exec_nop (s : State) : exec .nop s = .next (complete .ok s) := rfl
@[simp] theorem exec_mix (s : State) : exec .mix s = .next (complete .ok { s with dout := mix s.din }) := rfl
@[simp] theorem exec_ivder (s : State) :
    exec .ivder s = .next (complete .ok { s with div := deriveIv s.iv (s.spos >>> 12) }) := rfl
@[simp] theorem exec_sinval (s : State) : exec .sinval s = .next (complete .ok { s with blkValid := false }) := rfl
@[simp] theorem exec_ksgenOf (t : TierReq) (p : IntPrim) (s : State) :
    exec (ksgenOf t p) s = .next (ksgen p t s) := by cases p <;> rfl
@[simp] theorem exec_stepIntOf (t : TierReq) (p : IntPrim) (s : State) :
    exec (stepIntOf t p) s = .next (stepInt p t s) := by cases p <;> rfl
@[simp] theorem exec_stepFloatOf (t : TierReq) (p : FloatPrim) (s : State) :
    exec (stepFloatOf t p) s = .next (stepFloat p t s) := by cases p <;> rfl
@[simp] theorem exec_deriveOf (t : TierReq) (p : IntPrim) (s : State) :
    exec (deriveOf t p) s = .next (derive p t s) := by cases p <;> rfl
@[simp] theorem exec_processOf (t : TierReq) (p : IntPrim) (s : State) :
    exec (processOf t p) s = .next (process p t s) := by cases p <;> rfl
@[simp] theorem exec_sapplyOf (t : TierReq) (p : IntPrim) (s : State) :
    exec (sapplyOf t p) s = .next (sapply p t s) := by cases p <;> rfl

@[simp] theorem opField_ksgenOf (t : TierReq) (p : IntPrim) : opField (encode (ksgenOf t p)) = 2 := by
  cases t <;> cases p <;> rfl
@[simp] theorem opField_stepIntOf (t : TierReq) (p : IntPrim) : opField (encode (stepIntOf t p)) = 3 := by
  cases t <;> cases p <;> rfl
@[simp] theorem opField_stepFloatOf (t : TierReq) (p : FloatPrim) : opField (encode (stepFloatOf t p)) = 3 := by
  cases t <;> cases p <;> rfl
@[simp] theorem opField_deriveOf (t : TierReq) (p : IntPrim) : opField (encode (deriveOf t p)) = 4 := by
  cases t <;> cases p <;> rfl
@[simp] theorem opField_processOf (t : TierReq) (p : IntPrim) : opField (encode (processOf t p)) = 5 := by
  cases t <;> cases p <;> rfl
@[simp] theorem opField_sapplyOf (t : TierReq) (p : IntPrim) : opField (encode (sapplyOf t p)) = 7 := by
  cases t <;> cases p <;> rfl

@[simp] theorem tierField_ksgenOf (t : TierReq) (p : IntPrim) : tierField (encode (ksgenOf t p)) = t.toField := by
  cases t <;> cases p <;> rfl
@[simp] theorem tierField_stepIntOf (t : TierReq) (p : IntPrim) : tierField (encode (stepIntOf t p)) = t.toField := by
  cases t <;> cases p <;> rfl
@[simp] theorem tierField_stepFloatOf (t : TierReq) (p : FloatPrim) :
    tierField (encode (stepFloatOf t p)) = t.toField := by cases t <;> cases p <;> rfl
@[simp] theorem tierField_deriveOf (t : TierReq) (p : IntPrim) : tierField (encode (deriveOf t p)) = t.toField := by
  cases t <;> cases p <;> rfl
@[simp] theorem tierField_processOf (t : TierReq) (p : IntPrim) : tierField (encode (processOf t p)) = t.toField := by
  cases t <;> cases p <;> rfl
@[simp] theorem tierField_sapplyOf (t : TierReq) (p : IntPrim) : tierField (encode (sapplyOf t p)) = t.toField := by
  cases t <;> cases p <;> rfl

/-! ### What each shared meaning can do -/

/-- KSGEN: INVALID_ARGUMENT, or the mixed lanes in KS (R164). -/
theorem ksgen_cases (p : IntPrim) (t : TierReq) (s : State) :
    (resolve s.params t = none ∧ ksgen p t s = raiseError .invalidArgument s) ∨
    ∃ T, resolve s.params t = some T ∧ ksgen p t s = completeAtTier T
      { s with ks := mergeLanes (lanesU T) (fun k => mix (comb p (laneAt (laneFile s) k))) s.ks } := by
  unfold ksgen
  cases h : resolve s.params t <;> simp

/-- STEP on an integer primitive: INVALID_ARGUMENT, or the lanes after CNT transitions (R141). -/
theorem stepInt_cases (p : IntPrim) (t : TierReq) (s : State) :
    (resolve s.params t = none ∧ stepInt p t s = raiseError .invalidArgument s) ∨
    ∃ T, resolve s.params t = some T ∧ stepInt p t s = completeAtTier T
      (withLaneFile ((stepLanes p (lanesU T))^[s.cnt.toNat] (laneFile s)) s) := by
  unfold stepInt
  cases h : resolve s.params t <;> simp

/-- STEP on a float primitive: INVALID_ARGUMENT, or the lanes after CNT transitions and one index of free values taken
(R141). -/
theorem stepFloat_cases (p : FloatPrim) (t : TierReq) (s : State) :
    (resolve s.params t = none ∧ stepFloat p t s = raiseError .invalidArgument s) ∨
    ∃ T, resolve s.params t = some T ∧ stepFloat p t s = completeAtTier T
      { withLaneFile (repeatFrom (stepFloatLanes s.params p T s.freeIdx) s.cnt.toNat 0 (laneFile s)) s with
        freeIdx := s.freeIdx + 1 } := by
  unfold stepFloat
  cases h : resolve s.params t <;> simp

/-- DERIVE: the error of the first check that fails, or the seeds in the lanes (R193). -/
theorem derive_cases (p : IntPrim) (t : TierReq) (s : State) :
    (s.keylen.toNat < 32 ∧ derive p t s = raiseError .invalidKey s) ∨
    (32 ≤ s.keylen.toNat ∧ (resolve s.params t = none ∨ 16 < s.ivlen.toNat) ∧
      derive p t s = raiseError .invalidArgument s) ∨
    ∃ T, 32 ≤ s.keylen.toNat ∧ resolve s.params t = some T ∧ s.ivlen.toNat ≤ 16 ∧
      derive p t s = completeAtTier T (withLaneFile
        (storeLanes (intDim p) (lanesU T) (laneOf (deriveSeeds p T s.key s.iv s.ivlen.toNat)) (laneFile s)) s) := by
  unfold derive
  by_cases h1 : s.keylen.toNat < 32
  · exact .inl ⟨h1, if_pos h1⟩
  · rw [if_neg h1]
    cases h2 : resolve s.params t with
    | none => exact .inr (.inl ⟨by omega, .inl rfl, rfl⟩)
    | some T =>
      by_cases h3 : 16 < s.ivlen.toNat
      · exact .inr (.inl ⟨by omega, .inr h3, if_pos h3⟩)
      · exact .inr (.inr ⟨T, by omega, rfl, by omega, if_neg h3⟩)

/-- PROCESS: the error of the first check that fails, or the keystream XORed into the buffer (R200). -/
theorem process_cases (p : IntPrim) (t : TierReq) (s : State) :
    (s.keylen.toNat < 32 ∧ process p t s = raiseError .invalidKey s) ∨
    (32 ≤ s.keylen.toNat ∧
      (resolve s.params t = none ∨ 16 < s.ivlen.toNat ∨ 2 ^ 32 < s.addr.toNat + s.len.toNat) ∧
      process p t s = raiseError .invalidArgument s) ∨
    (∃ T a, 32 ≤ s.keylen.toNat ∧ resolve s.params t = some T ∧ s.ivlen.toNat ≤ 16 ∧
      s.addr.toNat + s.len.toNat ≤ 2 ^ 32 ∧ firstRejected s.params s.len.toNat s.addr.toNat = some a ∧
      process p t s = raiseAccessFault a s) ∨
    ∃ T, 32 ≤ s.keylen.toNat ∧ resolve s.params t = some T ∧ s.ivlen.toNat ≤ 16 ∧
      s.addr.toNat + s.len.toNat ≤ 2 ^ 32 ∧ firstRejected s.params s.len.toNat s.addr.toNat = none ∧
      process p t s = completeAtTier T
        { s with mem := xorBytes s.mem s.addr.toNat (keystream p T s.key s.iv s.ivlen.toNat s.len.toNat) } := by
  unfold process
  have hb : bufferPastEnd s = true ↔ 2 ^ 32 < s.addr.toNat + s.len.toNat := decide_eq_true_iff
  by_cases h1 : s.keylen.toNat < 32
  · exact .inl ⟨h1, if_pos h1⟩
  · rw [if_neg h1]
    cases h2 : resolve s.params t with
    | none => exact .inr (.inl ⟨by omega, .inl rfl, rfl⟩)
    | some T =>
      by_cases h3 : 16 < s.ivlen.toNat
      · exact .inr (.inl ⟨by omega, .inr (.inl h3), if_pos h3⟩)
      · by_cases h4 : 2 ^ 32 < s.addr.toNat + s.len.toNat
        · exact .inr (.inl ⟨by omega, .inr (.inr h4), by dsimp only; rw [if_neg h3, if_pos (hb.mpr h4)]⟩)
        · cases h5 : firstRejected s.params s.len.toNat s.addr.toNat with
          | some a => exact .inr (.inr (.inl ⟨T, a, by omega, rfl, by omega, by omega, rfl, by dsimp only; rw [if_neg h3, if_neg (mt hb.mp h4)]⟩))
          | none => exact .inr (.inr (.inr ⟨T, by omega, rfl, by omega, by omega, rfl, by dsimp only; rw [if_neg h3, if_neg (mt hb.mp h4)]⟩))

/-- SAPPLY: the error of the first check that fails, or the apply loop and the advance of SPOS (R227). -/
theorem sapply_cases (p : IntPrim) (t : TierReq) (s : State) :
    (s.keylen.toNat < 32 ∧ sapply p t s = raiseError .invalidKey s) ∨
    (32 ≤ s.keylen.toNat ∧
      (resolve s.params t = none ∨ s.ivlen.toNat ≠ 16 ∨ 2 ^ 32 < s.addr.toNat + s.len.toNat ∨
        2 ^ 64 < s.spos.toNat + s.len.toNat) ∧
      sapply p t s = raiseError .invalidArgument s) ∨
    (∃ T a, 32 ≤ s.keylen.toNat ∧ resolve s.params t = some T ∧ s.ivlen.toNat = 16 ∧
      s.addr.toNat + s.len.toNat ≤ 2 ^ 32 ∧ s.spos.toNat + s.len.toNat ≤ 2 ^ 64 ∧
      firstRejected s.params s.len.toNat s.addr.toNat = some a ∧ sapply p t s = raiseAccessFault a s) ∨
    ∃ T, 32 ≤ s.keylen.toNat ∧ resolve s.params t = some T ∧ s.ivlen.toNat = 16 ∧
      s.addr.toNat + s.len.toNat ≤ 2 ^ 32 ∧ s.spos.toNat + s.len.toNat ≤ 2 ^ 64 ∧
      firstRejected s.params s.len.toNat s.addr.toNat = none ∧
      sapply p t s = completeAtTier T
        { applyLoop p T s.len.toNat s.len.toNat s.addr.toNat s.spos.toNat s with
          spos := BitVec.ofNat 64 (s.spos.toNat + s.len.toNat) } := by
  unfold sapply
  have hb : bufferPastEnd s = true ↔ 2 ^ 32 < s.addr.toNat + s.len.toNat := decide_eq_true_iff
  have hs : streamPastEnd s = true ↔ 2 ^ 64 < s.spos.toNat + s.len.toNat := decide_eq_true_iff
  by_cases h1 : s.keylen.toNat < 32
  · exact .inl ⟨h1, if_pos h1⟩
  · rw [if_neg h1]
    cases h2 : resolve s.params t with
    | none => exact .inr (.inl ⟨by omega, .inl rfl, rfl⟩)
    | some T =>
      by_cases h3 : s.ivlen.toNat ≠ 16
      · exact .inr (.inl ⟨by omega, .inr (.inl h3), if_pos h3⟩)
      · by_cases h4 : 2 ^ 32 < s.addr.toNat + s.len.toNat
        · exact .inr (.inl ⟨by omega, .inr (.inr (.inl h4)), by dsimp only; rw [if_neg h3, if_pos (hb.mpr h4)]⟩)
        · by_cases h5 : 2 ^ 64 < s.spos.toNat + s.len.toNat
          · exact .inr (.inl ⟨by omega, .inr (.inr (.inr h5)), by
              dsimp only; rw [if_neg h3, if_neg (mt hb.mp h4), if_pos (hs.mpr h5)]⟩)
          · cases h6 : firstRejected s.params s.len.toNat s.addr.toNat with
            | some a =>
              exact .inr (.inr (.inl ⟨T, a, by omega, rfl, by omega, by omega, by omega, rfl, by
                dsimp only; rw [if_neg h3, if_neg (mt hb.mp h4), if_neg (mt hs.mp h5)]⟩))
            | none =>
              exact .inr (.inr (.inr ⟨T, by omega, rfl, by omega, by omega, by omega, rfl, by
                dsimp only; rw [if_neg h3, if_neg (mt hb.mp h4), if_neg (mt hs.mp h5)]⟩))

/-! ### What a step can do -/

/-- The engine's turn: idle, a command, or an illegal word, which no CMD write leaves in
progress (R88, R89, R263). -/
theorem engineTurn_cases (s : State) :
    (s.inProgress = none ∧ engineTurn s = .next s) ∨
    (∃ w i, s.inProgress = some w ∧ decode w = .ok i ∧ engineTurn s = exec i s) ∨
    ∃ w e, s.inProgress = some w ∧ decode w = .error e ∧ engineTurn s = .next (illegalCommand s) := by
  unfold engineTurn
  cases h : s.inProgress with
  | none => exact .inl ⟨rfl, rfl⟩
  | some w =>
    cases h2 : decode w with
    | ok i => exact .inr (.inl ⟨w, i, rfl, h2, by simp [h2]⟩)
    | error e => exact .inr (.inr ⟨w, e, rfl, h2, by simp [h2]⟩)

/-- All that an accepted CMD write can do: issue a legal word, or complete an ILLEGAL one at once (R26, R89, R255). -/
theorem acceptCommand_cases (w : Word) (s : State) :
    (∃ i, decode w = .ok i ∧ acceptCommand w s = { s with inProgress := some w, done := false, err := .ok }) ∨
    ∃ e, decode w = .error e ∧ acceptCommand w s = { s with inProgress := none, done := true, err := .illegalCmd } := by
  unfold acceptCommand
  cases h : decode w with
  | ok i => exact .inl ⟨i, rfl, rfl⟩
  | error e => exact .inr ⟨e, rfl, rfl⟩

/-- All that a step that goes on can do: the engine's turn, or one event of the outside world. -/
theorem step_cases {s t : State} (h : step s = .next t) :
    (s.agenda = [] ∧ engineTurn s = .next t) ∨
    (∃ es, s.agenda = .engine :: es ∧ engineTurn { s with agenda := es } = .next t) ∨
    (∃ off es, s.agenda = .read off 4 :: es ∧ off.toNat % 4 = 0 ∧ t = readRegister (regAt off) { s with agenda := es }) ∨
    (∃ off v es, s.agenda = .write off 4 v :: es ∧ off.toNat % 4 = 0 ∧
      t = writeRegister (regAt off) v { s with agenda := es }) ∨
    (∃ a es, s.agenda = .memLoad a :: es ∧ t = memLoad a { s with agenda := es }) ∨
    (∃ a b es, s.agenda = .memStore a b :: es ∧ t = memStore a b { s with agenda := es }) ∨
    ∃ es, s.agenda = .reset :: es ∧ t = assertReset { s with agenda := es } := by
  unfold step at h
  cases ha : s.agenda with
  | nil => rw [ha] at h; exact .inl ⟨rfl, h⟩
  | cons e es =>
    rw [ha] at h
    cases e with
    | engine => exact .inr (.inl ⟨es, rfl, h⟩)
    | read off width =>
      simp only [applyEvent, hostRead] at h
      split at h
      · rename_i hw
        simp only [accessWellFormed, Bool.and_eq_true, beq_iff_eq] at hw
        obtain ⟨rfl, ho⟩ := hw
        injection h with h
        exact .inr (.inr (.inl ⟨off, es, rfl, ho, h.symm⟩))
      · cases h
    | write off width v =>
      simp only [applyEvent, hostWrite] at h
      split at h
      · rename_i hw
        simp only [accessWellFormed, Bool.and_eq_true, beq_iff_eq] at hw
        obtain ⟨rfl, ho⟩ := hw
        injection h with h
        exact .inr (.inr (.inr (.inl ⟨off, v, es, rfl, ho, h.symm⟩)))
      · cases h
    | memLoad a => injection h with h; exact .inr (.inr (.inr (.inr (.inl ⟨a, es, rfl, h.symm⟩))))
    | memStore a b => injection h with h; exact .inr (.inr (.inr (.inr (.inr (.inl ⟨a, b, es, rfl, h.symm⟩)))))
    | reset => injection h with h; exact .inr (.inr (.inr (.inr (.inr (.inr ⟨es, rfl, h.symm⟩)))))

end Sys2Proof.Machine
end

