-- ==== Sys2Proof/Laws/Float.lean ====
section
/-! SUPPORT. The laws of the float operations: the supplied NaN is the result, or it plays no part in it (R111). -/

namespace Sys2Proof.Machine

/-- What an addition returns is the supplied NaN, or does not depend on it. -/
theorem fadd_nan_or (a b : F64) : (∀ nan, fadd nan a b = nan) ∨ (∀ nan nan', fadd nan a b = fadd nan' a b) := by
  unfold fadd
  split_ifs <;> simp

/-- What a subtraction returns is the supplied NaN, or does not depend on it. -/
theorem fsub_nan_or (a b : F64) : (∀ nan, fsub nan a b = nan) ∨ (∀ nan nan', fsub nan a b = fsub nan' a b) := by
  unfold fsub
  split_ifs
  · simp
  · exact fadd_nan_or a (fneg b)

/-- What a multiplication returns is the supplied NaN, or does not depend on it. -/
theorem fmul_nan_or (a b : F64) : (∀ nan, fmul nan a b = nan) ∨ (∀ nan nan', fmul nan a b = fmul nan' a b) := by
  unfold fmul
  split_ifs <;> simp

/-- What a division returns is the supplied NaN, or does not depend on it. -/
theorem fdiv_nan_or (a b : F64) : (∀ nan, fdiv nan a b = nan) ∨ (∀ nan nan', fdiv nan a b = fdiv nan' a b) := by
  unfold fdiv
  split_ifs <;> simp

/-- A sum that two supplies agree on is the sum whatever is supplied. -/
theorem fadd_eq_of {a b r n n' : F64} (hn : n ≠ n') (h : fadd n a b = r) (h' : fadd n' a b = r) (nan : F64) :
    fadd nan a b = r := by
  rcases fadd_nan_or a b with e | e
  · exact absurd ((e n).symm.trans (h.trans (h'.symm.trans (e n')))) hn
  · exact (e nan n).trans h

/-- A difference that two supplies agree on is the difference whatever is supplied. -/
theorem fsub_eq_of {a b r n n' : F64} (hn : n ≠ n') (h : fsub n a b = r) (h' : fsub n' a b = r) (nan : F64) :
    fsub nan a b = r := by
  rcases fsub_nan_or a b with e | e
  · exact absurd ((e n).symm.trans (h.trans (h'.symm.trans (e n')))) hn
  · exact (e nan n).trans h

/-- A product that two supplies agree on is the product whatever is supplied. -/
theorem fmul_eq_of {a b r n n' : F64} (hn : n ≠ n') (h : fmul n a b = r) (h' : fmul n' a b = r) (nan : F64) :
    fmul nan a b = r := by
  rcases fmul_nan_or a b with e | e
  · exact absurd ((e n).symm.trans (h.trans (h'.symm.trans (e n')))) hn
  · exact (e nan n).trans h

/-- A quotient that two supplies agree on is the quotient whatever is supplied. -/
theorem fdiv_eq_of {a b r n n' : F64} (hn : n ≠ n') (h : fdiv n a b = r) (h' : fdiv n' a b = r) (nan : F64) :
    fdiv nan a b = r := by
  rcases fdiv_nan_or a b with e | e
  · exact absurd ((e n).symm.trans (h.trans (h'.symm.trans (e n')))) hn
  · exact (e nan n).trans h

end Sys2Proof.Machine
end

