-- ==== Sys2Proof/Laws/Memory.lean ====
section
/-! SUPPORT. The laws of data memory: a read after a write, the canonical form every operation keeps, and what a run of
XorByte does. -/

namespace Sys2Proof.Machine

/-- What wfFrom says of a nonempty memory. -/
theorem wfFrom_cons {lo b : Nat} {v : Byte} {m : Memory} :
    wfFrom lo ((b, v) :: m) = true ↔ lo ≤ b ∧ b < 2 ^ 32 ∧ v ≠ unlistedByte ∧ wfFrom (b + 1) m = true := by
  simp [wfFrom, and_assoc]

/-- A lower bound on the addresses may be lowered. -/
theorem wfFrom_mono {lo lo' : Nat} {m : Memory} (h : wfFrom lo m = true) (hl : lo' ≤ lo) : wfFrom lo' m = true := by
  cases m with
  | nil => rfl
  | cons c m =>
    obtain ⟨b, v⟩ := c
    rw [wfFrom_cons] at h ⊢
    exact ⟨hl.trans h.1, h.2⟩

/-- Below its least address a canonical memory lists nothing. -/
theorem readByte_below {lo a : Nat} {m : Memory} (h : wfFrom lo m = true) (ha : a < lo) :
    readByte m a = unlistedByte := by
  induction m generalizing lo with
  | nil => rfl
  | cons c m ih =>
    obtain ⟨b, v⟩ := c
    rw [wfFrom_cons] at h
    have hab : a ≠ b := by omega
    simp [readByte, hab, ih h.2.2.2 (by omega)]

/-- A read after a write, from a lower bound on. -/
theorem readByte_writeByte_from {lo : Nat} {m : Memory} (h : wfFrom lo m = true) (a : Nat) (v : Byte) (b : Nat) :
    readByte (writeByte m a v) b = if b = a then v else readByte m b := by
  induction m generalizing lo with
  | nil =>
    by_cases hv : v = unlistedByte
    · subst hv; by_cases hb : b = a <;> simp [writeByte, readByte]
    · simp [writeByte, readByte, hv]
  | cons c m ih =>
    obtain ⟨d, u⟩ := c
    have h' := wfFrom_cons.mp h
    unfold writeByte
    split
    · rename_i hlt
      by_cases hv : v = unlistedByte
      · subst hv
        by_cases hb : b = a
        · subst hb
          have : readByte ((d, u) :: m) b = unlistedByte := readByte_below (lo := d) (wfFrom_cons.mpr
            ⟨le_rfl, h'.2.1, h'.2.2.1, h'.2.2.2⟩) hlt
          simp [this]
        · simp [hb]
      · simp [readByte, hv]
    · split
      · rename_i hlt heq
        subst heq
        by_cases hv : v = unlistedByte
        · subst hv
          by_cases hb : b = a
          · subst hb; simp [readByte_below h'.2.2.2 (Nat.lt_succ_self b)]
          · simp [hb, readByte]
        · by_cases hb : b = a <;> simp [readByte, hv, hb]
      · rename_i hlt hne
        by_cases hb : b = d
        · subst hb
          have : ¬ b = a := fun e => hne e.symm
          simp [readByte, this]
        · simp [readByte, hb, ih h'.2.2.2]

/-- A write keeps the canonical form. -/
theorem wfFrom_writeByte {lo : Nat} {m : Memory} (h : wfFrom lo m = true) {a : Nat} (ha : lo ≤ a) (ha' : a < 2 ^ 32)
    (v : Byte) : wfFrom lo (writeByte m a v) = true := by
  induction m generalizing lo with
  | nil =>
    by_cases hv : v = unlistedByte
    · simp [writeByte, hv, wfFrom]
    · simp only [writeByte, hv, if_false]; exact wfFrom_cons.mpr ⟨ha, ha', hv, rfl⟩
  | cons c m ih =>
    obtain ⟨d, u⟩ := c
    have h' := wfFrom_cons.mp h
    unfold writeByte
    split
    · rename_i hlt
      by_cases hv : v = unlistedByte
      · simpa [hv] using h
      · simp only [hv, if_false]
        exact wfFrom_cons.mpr ⟨ha, ha', hv, wfFrom_cons.mpr ⟨by omega, h'.2.1, h'.2.2.1, h'.2.2.2⟩⟩
    · split
      · rename_i heq
        subst heq
        by_cases hv : v = unlistedByte
        · simp only [hv, if_true]; exact wfFrom_mono h'.2.2.2 (by omega)
        · simp only [hv, if_false]; exact wfFrom_cons.mpr ⟨ha, ha', hv, h'.2.2.2⟩
      · exact wfFrom_cons.mpr ⟨h'.1, h'.2.1, h'.2.2.1, ih h'.2.2.2 (by omega)⟩

/-- A read after a write: the byte written at its address, and every other byte as before. -/
theorem readByte_writeByte {m : Memory} (h : Memory.wf m = true) (a : Nat) (v : Byte) (b : Nat) :
    readByte (writeByte m a v) b = if b = a then v else readByte m b :=
  readByte_writeByte_from h a v b

/-- A write below 2^32 keeps the canonical form. -/
theorem wf_writeByte {m : Memory} (h : Memory.wf m = true) {a : Nat} (ha : a < 2 ^ 32) (v : Byte) :
    Memory.wf (writeByte m a v) = true :=
  wfFrom_writeByte h (Nat.zero_le a) ha v

/-- XorByte below 2^32 keeps the canonical form. -/
theorem wf_xorByte {m : Memory} (h : Memory.wf m = true) {a : Nat} (ha : a < 2 ^ 32) (k : Byte) :
    Memory.wf (xorByte m a k) = true :=
  wf_writeByte h ha _

/-- XorByte changes its byte by the key byte and nothing else (R65). -/
theorem readByte_xorByte {m : Memory} (h : Memory.wf m = true) (a : Nat) (k : Byte) (b : Nat) :
    readByte (xorByte m a k) b = if b = a then readByte m a ^^^ k else readByte m b :=
  readByte_writeByte h a _ b

/-- A run of XorByte below 2^32 keeps the canonical form. -/
theorem wf_xorBytes {m : Memory} (h : Memory.wf m = true) {a : Nat} {ks : List Byte} (ha : a + ks.length ≤ 2 ^ 32) :
    Memory.wf (xorBytes m a ks) = true := by
  induction ks generalizing m a with
  | nil => exact h
  | cons k ks ih =>
    simp only [List.length_cons] at ha
    exact ih (wf_xorByte h (by omega) k) (by omega)

/-- All that a run of XorByte does (R65): byte a + i is XORed with key byte i, every other byte is as before. -/
theorem readByte_xorBytes {m : Memory} (h : Memory.wf m = true) {a : Nat} {ks : List Byte} (ha : a + ks.length ≤ 2 ^ 32)
    (b : Nat) :
    readByte (xorBytes m a ks) b =
      if a ≤ b ∧ b < a + ks.length then readByte m b ^^^ ks.getD (b - a) 0 else readByte m b := by
  induction ks generalizing m a with
  | nil => simp [xorBytes]
  | cons k ks ih =>
    simp only [List.length_cons] at ha
    rw [xorBytes, ih (wf_xorByte h (by omega) k) (by omega), readByte_xorByte h]
    by_cases hb : b = a
    · subst hb; simp
    · by_cases hin : a + 1 ≤ b ∧ b < a + 1 + ks.length
      · have h1 : a ≤ b ∧ b < a + (k :: ks).length := by simp; omega
        have h2 : b - a = (b - (a + 1)) + 1 := by omega
        simp only [hin, h1, hb, if_true, if_false, and_self, h2, List.getD_cons_succ]
      · have h1 : ¬ (a ≤ b ∧ b < a + (k :: ks).length) := by simp; omega
        simp only [hin, h1, hb, if_false]

/-- A run of bytes in two pieces (R65). -/
theorem xorBytes_append (m : Memory) (a : Nat) (xs ys : List Byte) :
    xorBytes m a (xs ++ ys) = xorBytes (xorBytes m a xs) (a + xs.length) ys := by
  induction xs generalizing m a with
  | nil => rfl
  | cons x xs ih =>
    simp only [List.cons_append, xorBytes, List.length_cons]
    rw [ih]; congr 1; omega

/-- The keystream run of a block in two pieces. -/
theorem xorBytes_run (m : Memory) (a i j n : Nat) (K : List Byte) :
    xorBytes m a ((K.drop i).take (j + n)) = xorBytes (xorBytes m a ((K.drop i).take j)) (a + j) ((K.drop (i + j)).take n) := by
  rw [List.take_add, xorBytes_append, List.drop_drop]
  by_cases h : j ≤ (K.drop i).length
  · rw [List.length_take, min_eq_left h]
  · rw [List.drop_eq_nil_of_le (as := K) (i := i + j) (by simp at h; omega)]
    simp [xorBytes]

/-- Freeing bytes below 2^32 keeps the canonical form. -/
theorem wf_freeBytes {m : Memory} (h : Memory.wf m = true) (free : Nat → Byte) {n a : Nat} (ha : a + n ≤ 2 ^ 32) :
    Memory.wf (freeBytes free n a m) = true := by
  induction n generalizing m a with
  | zero => exact h
  | succ n ih => exact ih (wf_writeByte h (by omega) _) (by omega)

/-- All that freeing bytes does (R281): the n bytes from a on take free values, every other byte is as before. -/
theorem readByte_freeBytes {m : Memory} (h : Memory.wf m = true) (free : Nat → Byte) {n a : Nat} (ha : a + n ≤ 2 ^ 32)
    (b : Nat) :
    readByte (freeBytes free n a m) b = if a ≤ b ∧ b < a + n then free b else readByte m b := by
  induction n generalizing m a with
  | zero => simp [freeBytes]
  | succ n ih =>
    rw [freeBytes, ih (wf_writeByte h (by omega) _) (by omega), readByte_writeByte h]
    by_cases hb : b = a
    · subst hb; simp
    · by_cases hin : a + 1 ≤ b ∧ b < a + 1 + n
      · have h1 : a ≤ b ∧ b < a + (n + 1) := by omega
        simp only [hin, h1, if_true, and_self]
      · have h1 : ¬ (a ≤ b ∧ b < a + (n + 1)) := by omega
        simp only [hin, h1, hb, if_false]

/-- Canonical memories that read alike are equal, from a lower bound on. -/
theorem memory_ext_from {lo : Nat} {m m' : Memory} (h : wfFrom lo m = true) (h' : wfFrom lo m' = true)
    (hr : ∀ a, readByte m a = readByte m' a) : m = m' := by
  induction m generalizing lo m' with
  | nil =>
    cases m' with
    | nil => rfl
    | cons c m' =>
      obtain ⟨b, v⟩ := c
      exact absurd (by simpa [readByte] using (hr b).symm) (wfFrom_cons.mp h').2.2.1
  | cons c m ih =>
    obtain ⟨b, v⟩ := c
    have hm := wfFrom_cons.mp h
    cases m' with
    | nil => exact absurd (by simpa [readByte] using hr b) hm.2.2.1
    | cons c' m' =>
      obtain ⟨b', v'⟩ := c'
      have hm' := wfFrom_cons.mp h'
      have hbb : b = b' := by
        rcases Nat.lt_trichotomy b b' with hlt | heq | hgt
        · have := hr b
          rw [readByte_below (lo := b') (wfFrom_cons.mpr ⟨le_rfl, hm'.2⟩) hlt] at this
          exact absurd (by simpa [readByte] using this) hm.2.2.1
        · exact heq
        · have := hr b'
          rw [readByte_below (lo := b) (wfFrom_cons.mpr ⟨le_rfl, hm.2⟩) hgt] at this
          exact absurd (by simpa [readByte] using this.symm) hm'.2.2.1
      subst hbb
      have hv : v = v' := by simpa [readByte] using hr b
      subst hv
      have : m = m' := ih hm.2.2.2 hm'.2.2.2 fun a => by
        by_cases ha : a = b
        · subst ha
          rw [readByte_below hm.2.2.2 (Nat.lt_succ_self a), readByte_below hm'.2.2.2 (Nat.lt_succ_self a)]
        · simpa [readByte, ha] using hr a
      rw [this]

/-- Canonical memories that read alike at every address are equal. -/
theorem memory_ext {m m' : Memory} (h : Memory.wf m = true) (h' : Memory.wf m' = true)
    (hr : ∀ a, readByte m a = readByte m' a) : m = m' :=
  memory_ext_from h h' hr

/-- All that the pre-check can answer (R66): nothing, and every byte is admitted; or the lowest rejected address. -/
theorem firstRejected_cases (p : Params) (n a : Nat) :
    (firstRejected p n a = none ∧ ∀ i < n, memAdmits p (a + i) = true) ∨
    (∃ j < n, firstRejected p n a = some (a + j) ∧ memAdmits p (a + j) = false ∧
      ∀ i < j, memAdmits p (a + i) = true) := by
  induction n generalizing a with
  | zero => exact .inl ⟨rfl, by simp⟩
  | succ n ih =>
    unfold firstRejected
    by_cases ha : memAdmits p a = true
    · rw [if_pos ha]
      rcases ih (a + 1) with ⟨h, hall⟩ | ⟨j, hj, h, hr, hall⟩
      · refine .inl ⟨h, fun i hi => ?_⟩
        cases i with
        | zero => simpa using ha
        | succ i => simpa [Nat.add_assoc, Nat.add_comm 1 i] using hall i (by omega)
      · refine .inr ⟨j + 1, by omega, ?_, ?_, fun i hi => ?_⟩
        · rw [h]; congr 1; omega
        · simpa [Nat.add_assoc, Nat.add_comm 1 j] using hr
        · cases i with
          | zero => simpa using ha
          | succ i => simpa [Nat.add_assoc, Nat.add_comm 1 i] using hall i (by omega)
    · rw [if_neg ha]
      exact .inr ⟨0, by omega, rfl, by simpa using ha, by simp⟩

end Sys2Proof.Machine
end

