-- ==== Sys2Proof/Laws/Lanes.lean ====
section
/-! SUPPORT. The laws of the lane state file and of the small register files: what a read of one lane gives after each
operation. -/

namespace Sys2Proof.Machine

/-- A lane of a built vector. -/
@[simp] theorem word_buildLanes (f : Nat → Word) {k : Nat} (hk : k < 16) : word (buildLanes f) k = f k := by
  interval_cases k <;> rfl

/-- Element k of a vector, read as a list element. -/
theorem word_eq_getElem {n : Nat} (v : Vector Word n) {k : Nat} (hk : k < n) : word v k = v[k] := by
  simp [word, hk]

/-- Past its end a vector reads 0. -/
theorem word_past_end {n : Nat} (v : Vector Word n) {k : Nat} (hk : n ≤ k) : word v k = 0 := by
  simp [word, hk]

/-- Two vectors that read alike are equal. -/
theorem vector_ext_word {n : Nat} {v w : Vector Word n} (h : ∀ k < n, word v k = word w k) : v = w := by
  ext k hk
  rw [← word_eq_getElem v hk, ← word_eq_getElem w hk, h k hk]

/-- A register file after one element is written. -/
theorem word_setIfInBounds {n : Nat} (v : Vector Word n) (j k : Nat) (x : Word) (hk : k < n) :
    word (v.setIfInBounds j x) k = if k = j then x else word v k := by
  rw [word_eq_getElem _ hk, word_eq_getElem _ hk, Vector.getElem_setIfInBounds]
  by_cases h : j = k
  · subst h; simp
  · have : ¬ k = j := fun e => h e.symm
    simp [h, this]

/-- A lane after the active lanes are replaced (R102). -/
theorem word_mergeLanes (L : Nat) (f : Nat → Word) (V : Vector Word 16) {k : Nat} (hk : k < 16) :
    word (mergeLanes L f V) k = if k < L then f k else word V k :=
  word_buildLanes _ hk

/-- An f64 lane after the active f64 lanes are replaced (R42, R102). -/
theorem floatLane_mergeFloatLanes (L : Nat) (f : Nat → F64) (V : Vector Word 16) {k : Nat} (hk : k < 8) :
    floatLane (mergeFloatLanes L f V) k = if k < L then f k else floatLane V k := by
  have h1 : 2 * k + 1 < 16 := by omega
  have h2 : 2 * k < 16 := by omega
  have d1 : (2 * k + 1) / 2 = k := by omega
  have d2 : 2 * k / 2 = k := by omega
  have m1 : (2 * k + 1) % 2 = 1 := by omega
  have m2 : 2 * k % 2 = 0 := by omega
  unfold floatLane mergeFloatLanes
  rw [word_buildLanes _ h1, word_buildLanes _ h2]
  by_cases hL : k < L
  · have l1 : 2 * k + 1 < 2 * L := by omega
    have l2 : 2 * k < 2 * L := by omega
    simp only [l1, l2, hL, if_true, d1, d2, m1, m2, floatHalf]
    simp only [Nat.one_ne_zero, if_false]
    ext i hi
    simp only [BitVec.getElem_append, BitVec.getElem_extractLsb']
    split
    · simp [BitVec.getLsbD_eq_getElem hi]
    · have : 32 + (i - 32) = i := by omega
      simp [this, BitVec.getLsbD_eq_getElem hi]
  · have l1 : ¬ 2 * k + 1 < 2 * L := by omega
    have l2 : ¬ 2 * k < 2 * L := by omega
    simp only [l1, l2, hL, if_false]

/-- An f64 lane names its two u32 lanes, and they it (R42). -/
theorem floatLane_words (V : Vector Word 16) (k : Nat) :
    (floatLane V k).extractLsb' 0 32 = word V (2 * k) ∧ (floatLane V k).extractLsb' 32 32 = word V (2 * k + 1) := by
  constructor
  · ext i hi
    simp only [floatLane, BitVec.getElem_extractLsb', BitVec.getLsbD_append]
    simp [hi]
  · ext i hi
    simp only [floatLane, BitVec.getElem_extractLsb', BitVec.getLsbD_append]
    have : ¬ 32 + i < 32 := by omega
    simp [BitVec.getLsbD_eq_getElem hi]

/-- Lane k after the active lanes are stored, in the first D vectors (R44, R102). -/
theorem laneAt_storeLanes (D L : Nat) (f : Nat → Tri Word) (W : LaneFile) {k : Nat} (hk : k < 16) :
    laneAt (storeLanes D L f W) k =
      if k < L then
        ⟨(f k).x, if 2 ≤ D then (f k).y else word W.y k, if 3 ≤ D then (f k).z else word W.z k⟩
      else laneAt W k := by
  by_cases hL : k < L <;> by_cases h2 : 2 ≤ D <;> by_cases h3 : 3 ≤ D <;>
    simp [laneAt, storeLanes, word_mergeLanes _ _ _ hk, hL, h2, h3]

/-- Two lane state files that read alike in every u32 lane are equal. -/
theorem laneFile_ext {W W' : LaneFile} (h : ∀ k < 16, laneAt W k = laneAt W' k) : W = W' := by
  obtain ⟨x, y, z⟩ := W
  obtain ⟨x', y', z'⟩ := W'
  have hx : x = x' := vector_ext_word fun k hk => by simpa [laneAt] using congrArg Tri.x (h k hk)
  have hy : y = y' := vector_ext_word fun k hk => by simpa [laneAt] using congrArg Tri.y (h k hk)
  have hz : z = z' := vector_ext_word fun k hk => by simpa [laneAt] using congrArg Tri.z (h k hk)
  rw [hx, hy, hz]

end Sys2Proof.Machine
end

