-- ==== Sys2Proof/Laws/PerInstr.lean ====
section
/-! SUPPORT. The per-instruction family `EncodesItsRow`: the word of a command is the one its row of the opcode table
gives (30_encoding R80, R85, R86), under the row's mask, and its TIER bits are the operand. -/

namespace Sys2Proof.Laws

/-- "match" and "mask" of a command's row of spec/opcode_table.json. -/
def EncodesItsRow.row : Instr → Word × Word
  | .nop => (0x00000000, 0xFFFFFFFF)
  | .mix => (0x00000001, 0xFFFFFFFF)
  | .ksgenItent _ => (0x00000002, 0xFFFFCFFF)
  | .ksgenIlog _ => (0x00000102, 0xFFFFCFFF)
  | .ksgenIsine _ => (0x00000202, 0xFFFFCFFF)
  | .ksgenIhenon _ => (0x00000302, 0xFFFFCFFF)
  | .ksgenIlorenz _ => (0x00000402, 0xFFFFCFFF)
  | .ksgenIchen _ => (0x00000502, 0xFFFFCFFF)
  | .stepItent _ => (0x00000003, 0xFFFFCFFF)
  | .stepIlog _ => (0x00000103, 0xFFFFCFFF)
  | .stepIsine _ => (0x00000203, 0xFFFFCFFF)
  | .stepIhenon _ => (0x00000303, 0xFFFFCFFF)
  | .stepIlorenz _ => (0x00000403, 0xFFFFCFFF)
  | .stepIchen _ => (0x00000503, 0xFFFFCFFF)
  | .stepFlog _ => (0x00000803, 0xFFFFCFFF)
  | .stepFtent _ => (0x00000903, 0xFFFFCFFF)
  | .stepFsine _ => (0x00000A03, 0xFFFFCFFF)
  | .stepFhenon _ => (0x00000B03, 0xFFFFCFFF)
  | .stepFlorenz _ => (0x00000C03, 0xFFFFCFFF)
  | .stepFchen _ => (0x00000D03, 0xFFFFCFFF)
  | .deriveItent _ => (0x00000004, 0xFFFFCFFF)
  | .deriveIlog _ => (0x00000104, 0xFFFFCFFF)
  | .deriveIsine _ => (0x00000204, 0xFFFFCFFF)
  | .deriveIhenon _ => (0x00000304, 0xFFFFCFFF)
  | .deriveIlorenz _ => (0x00000404, 0xFFFFCFFF)
  | .deriveIchen _ => (0x00000504, 0xFFFFCFFF)
  | .processItent _ => (0x00000005, 0xFFFFCFFF)
  | .processIlog _ => (0x00000105, 0xFFFFCFFF)
  | .processIsine _ => (0x00000205, 0xFFFFCFFF)
  | .processIhenon _ => (0x00000305, 0xFFFFCFFF)
  | .processIlorenz _ => (0x00000405, 0xFFFFCFFF)
  | .processIchen _ => (0x00000505, 0xFFFFCFFF)
  | .ivder => (0x00000006, 0xFFFFFFFF)
  | .sapplyItent _ => (0x00000007, 0xFFFFCFFF)
  | .sapplyIlog _ => (0x00000107, 0xFFFFCFFF)
  | .sapplyIsine _ => (0x00000207, 0xFFFFCFFF)
  | .sapplyIhenon _ => (0x00000307, 0xFFFFCFFF)
  | .sapplyIlorenz _ => (0x00000407, 0xFFFFCFFF)
  | .sapplyIchen _ => (0x00000507, 0xFFFFCFFF)
  | .sinval => (0x00000008, 0xFFFFFFFF)

/-- The TIER field that a command's operand asks for (R83): 0 where the command takes none. -/
def EncodesItsRow.tier : Instr → Nat
  | .nop => 0
  | .mix => 0
  | .ksgenItent t => t.toField.toNat
  | .ksgenIlog t => t.toField.toNat
  | .ksgenIsine t => t.toField.toNat
  | .ksgenIhenon t => t.toField.toNat
  | .ksgenIlorenz t => t.toField.toNat
  | .ksgenIchen t => t.toField.toNat
  | .stepItent t => t.toField.toNat
  | .stepIlog t => t.toField.toNat
  | .stepIsine t => t.toField.toNat
  | .stepIhenon t => t.toField.toNat
  | .stepIlorenz t => t.toField.toNat
  | .stepIchen t => t.toField.toNat
  | .stepFlog t => t.toField.toNat
  | .stepFtent t => t.toField.toNat
  | .stepFsine t => t.toField.toNat
  | .stepFhenon t => t.toField.toNat
  | .stepFlorenz t => t.toField.toNat
  | .stepFchen t => t.toField.toNat
  | .deriveItent t => t.toField.toNat
  | .deriveIlog t => t.toField.toNat
  | .deriveIsine t => t.toField.toNat
  | .deriveIhenon t => t.toField.toNat
  | .deriveIlorenz t => t.toField.toNat
  | .deriveIchen t => t.toField.toNat
  | .processItent t => t.toField.toNat
  | .processIlog t => t.toField.toNat
  | .processIsine t => t.toField.toNat
  | .processIhenon t => t.toField.toNat
  | .processIlorenz t => t.toField.toNat
  | .processIchen t => t.toField.toNat
  | .ivder => 0
  | .sapplyItent t => t.toField.toNat
  | .sapplyIlog t => t.toField.toNat
  | .sapplyIsine t => t.toField.toNat
  | .sapplyIhenon t => t.toField.toNat
  | .sapplyIlorenz t => t.toField.toNat
  | .sapplyIchen t => t.toField.toNat
  | .sinval => 0

/-- The command's word agrees with its row under the row's mask, and its bits 13:12 are its tier. -/
def EncodesItsRow.Statement (i : Instr) : Prop :=
  encode i &&& (EncodesItsRow.row i).2 = (EncodesItsRow.row i).1 ∧
    (encode i).toNat / 2 ^ 12 % 4 = EncodesItsRow.tier i ∧ (encode i).toNat < 2 ^ 14

theorem EncodesItsRow.nop : EncodesItsRow.Statement .nop := by
  refine ⟨?_, ?_, ?_⟩ <;> decide
theorem EncodesItsRow.mix : EncodesItsRow.Statement .mix := by
  refine ⟨?_, ?_, ?_⟩ <;> decide
theorem EncodesItsRow.ksgenItent (t : TierReq) : EncodesItsRow.Statement (.ksgenItent t) := by
  cases t <;> (refine ⟨?_, ?_, ?_⟩ <;> decide)
theorem EncodesItsRow.ksgenIlog (t : TierReq) : EncodesItsRow.Statement (.ksgenIlog t) := by
  cases t <;> (refine ⟨?_, ?_, ?_⟩ <;> decide)
theorem EncodesItsRow.ksgenIsine (t : TierReq) : EncodesItsRow.Statement (.ksgenIsine t) := by
  cases t <;> (refine ⟨?_, ?_, ?_⟩ <;> decide)
theorem EncodesItsRow.ksgenIhenon (t : TierReq) : EncodesItsRow.Statement (.ksgenIhenon t) := by
  cases t <;> (refine ⟨?_, ?_, ?_⟩ <;> decide)
theorem EncodesItsRow.ksgenIlorenz (t : TierReq) : EncodesItsRow.Statement (.ksgenIlorenz t) := by
  cases t <;> (refine ⟨?_, ?_, ?_⟩ <;> decide)
theorem EncodesItsRow.ksgenIchen (t : TierReq) : EncodesItsRow.Statement (.ksgenIchen t) := by
  cases t <;> (refine ⟨?_, ?_, ?_⟩ <;> decide)
theorem EncodesItsRow.stepItent (t : TierReq) : EncodesItsRow.Statement (.stepItent t) := by
  cases t <;> (refine ⟨?_, ?_, ?_⟩ <;> decide)
theorem EncodesItsRow.stepIlog (t : TierReq) : EncodesItsRow.Statement (.stepIlog t) := by
  cases t <;> (refine ⟨?_, ?_, ?_⟩ <;> decide)
theorem EncodesItsRow.stepIsine (t : TierReq) : EncodesItsRow.Statement (.stepIsine t) := by
  cases t <;> (refine ⟨?_, ?_, ?_⟩ <;> decide)
theorem EncodesItsRow.stepIhenon (t : TierReq) : EncodesItsRow.Statement (.stepIhenon t) := by
  cases t <;> (refine ⟨?_, ?_, ?_⟩ <;> decide)
theorem EncodesItsRow.stepIlorenz (t : TierReq) : EncodesItsRow.Statement (.stepIlorenz t) := by
  cases t <;> (refine ⟨?_, ?_, ?_⟩ <;> decide)
theorem EncodesItsRow.stepIchen (t : TierReq) : EncodesItsRow.Statement (.stepIchen t) := by
  cases t <;> (refine ⟨?_, ?_, ?_⟩ <;> decide)
theorem EncodesItsRow.stepFlog (t : TierReq) : EncodesItsRow.Statement (.stepFlog t) := by
  cases t <;> (refine ⟨?_, ?_, ?_⟩ <;> decide)
theorem EncodesItsRow.stepFtent (t : TierReq) : EncodesItsRow.Statement (.stepFtent t) := by
  cases t <;> (refine ⟨?_, ?_, ?_⟩ <;> decide)
theorem EncodesItsRow.stepFsine (t : TierReq) : EncodesItsRow.Statement (.stepFsine t) := by
  cases t <;> (refine ⟨?_, ?_, ?_⟩ <;> decide)
theorem EncodesItsRow.stepFhenon (t : TierReq) : EncodesItsRow.Statement (.stepFhenon t) := by
  cases t <;> (refine ⟨?_, ?_, ?_⟩ <;> decide)
theorem EncodesItsRow.stepFlorenz (t : TierReq) : EncodesItsRow.Statement (.stepFlorenz t) := by
  cases t <;> (refine ⟨?_, ?_, ?_⟩ <;> decide)
theorem EncodesItsRow.stepFchen (t : TierReq) : EncodesItsRow.Statement (.stepFchen t) := by
  cases t <;> (refine ⟨?_, ?_, ?_⟩ <;> decide)
theorem EncodesItsRow.deriveItent (t : TierReq) : EncodesItsRow.Statement (.deriveItent t) := by
  cases t <;> (refine ⟨?_, ?_, ?_⟩ <;> decide)
theorem EncodesItsRow.deriveIlog (t : TierReq) : EncodesItsRow.Statement (.deriveIlog t) := by
  cases t <;> (refine ⟨?_, ?_, ?_⟩ <;> decide)
theorem EncodesItsRow.deriveIsine (t : TierReq) : EncodesItsRow.Statement (.deriveIsine t) := by
  cases t <;> (refine ⟨?_, ?_, ?_⟩ <;> decide)
theorem EncodesItsRow.deriveIhenon (t : TierReq) : EncodesItsRow.Statement (.deriveIhenon t) := by
  cases t <;> (refine ⟨?_, ?_, ?_⟩ <;> decide)
theorem EncodesItsRow.deriveIlorenz (t : TierReq) : EncodesItsRow.Statement (.deriveIlorenz t) := by
  cases t <;> (refine ⟨?_, ?_, ?_⟩ <;> decide)
theorem EncodesItsRow.deriveIchen (t : TierReq) : EncodesItsRow.Statement (.deriveIchen t) := by
  cases t <;> (refine ⟨?_, ?_, ?_⟩ <;> decide)
theorem EncodesItsRow.processItent (t : TierReq) : EncodesItsRow.Statement (.processItent t) := by
  cases t <;> (refine ⟨?_, ?_, ?_⟩ <;> decide)
theorem EncodesItsRow.processIlog (t : TierReq) : EncodesItsRow.Statement (.processIlog t) := by
  cases t <;> (refine ⟨?_, ?_, ?_⟩ <;> decide)
theorem EncodesItsRow.processIsine (t : TierReq) : EncodesItsRow.Statement (.processIsine t) := by
  cases t <;> (refine ⟨?_, ?_, ?_⟩ <;> decide)
theorem EncodesItsRow.processIhenon (t : TierReq) : EncodesItsRow.Statement (.processIhenon t) := by
  cases t <;> (refine ⟨?_, ?_, ?_⟩ <;> decide)
theorem EncodesItsRow.processIlorenz (t : TierReq) : EncodesItsRow.Statement (.processIlorenz t) := by
  cases t <;> (refine ⟨?_, ?_, ?_⟩ <;> decide)
theorem EncodesItsRow.processIchen (t : TierReq) : EncodesItsRow.Statement (.processIchen t) := by
  cases t <;> (refine ⟨?_, ?_, ?_⟩ <;> decide)
theorem EncodesItsRow.ivder : EncodesItsRow.Statement .ivder := by
  refine ⟨?_, ?_, ?_⟩ <;> decide
theorem EncodesItsRow.sapplyItent (t : TierReq) : EncodesItsRow.Statement (.sapplyItent t) := by
  cases t <;> (refine ⟨?_, ?_, ?_⟩ <;> decide)
theorem EncodesItsRow.sapplyIlog (t : TierReq) : EncodesItsRow.Statement (.sapplyIlog t) := by
  cases t <;> (refine ⟨?_, ?_, ?_⟩ <;> decide)
theorem EncodesItsRow.sapplyIsine (t : TierReq) : EncodesItsRow.Statement (.sapplyIsine t) := by
  cases t <;> (refine ⟨?_, ?_, ?_⟩ <;> decide)
theorem EncodesItsRow.sapplyIhenon (t : TierReq) : EncodesItsRow.Statement (.sapplyIhenon t) := by
  cases t <;> (refine ⟨?_, ?_, ?_⟩ <;> decide)
theorem EncodesItsRow.sapplyIlorenz (t : TierReq) : EncodesItsRow.Statement (.sapplyIlorenz t) := by
  cases t <;> (refine ⟨?_, ?_, ?_⟩ <;> decide)
theorem EncodesItsRow.sapplyIchen (t : TierReq) : EncodesItsRow.Statement (.sapplyIchen t) := by
  cases t <;> (refine ⟨?_, ?_, ?_⟩ <;> decide)
theorem EncodesItsRow.sinval : EncodesItsRow.Statement .sinval := by
  refine ⟨?_, ?_, ?_⟩ <;> decide

end Sys2Proof.Laws
end

