-- ==== Sys2Proof/Laws/Stream.lean ====
section
/-! SUPPORT. The laws of the block cache and of SAPPLY's apply loop. -/

namespace Sys2Proof.Machine

/-- A resolved tier is implemented (R101). -/
theorem implemented_of_resolve {q : Params} {t : TierReq} {T : Tier} (h : resolve q t = some T) :
    implemented q T = true := by
  cases t with
  | auto =>
    simp only [resolve, Option.some.injEq] at h
    subst h
    by_cases h5 : q.hasW512 = true
    · simp [h5, implemented]
    · by_cases h2 : q.hasW256 = true <;> simp [h5, h2, implemented]
  | scalar => simp only [resolve, Option.some.injEq] at h; subst h; rfl
  | w256 =>
    simp only [resolve] at h
    split at h
    · rename_i hw; simp only [Option.some.injEq] at h; subst h; exact hw
    · cases h
  | w512 =>
    simp only [resolve] at h
    split at h
    · rename_i hw; simp only [Option.some.injEq] at h; subst h; exact hw
    · cases h

/-- A tag names one primitive and one tier (R37). -/
theorem blockTag_inj {p p' : IntPrim} {T T' : Tier} (h : blockTag p T = blockTag p' T') : p = p' ∧ T = T' := by
  cases p <;> cases p' <;> cases T <;> cases T' <;> first | exact ⟨rfl, rfl⟩ | exact absurd h (by decide)

/-- The truth of the cache is about six fields of the state: cite this in place of comparing whole states. -/
theorem cacheTrue_congr {s s' : State} (ht : s'.blktag = s.blktag) (hp : s'.params = s.params)
    (hb : s'.blkbuf = s.blkbuf) (hk : s'.key = s.key) (hv : s'.iv = s.iv) (hi : s'.blkidx = s.blkidx)
    (h : CacheTrue s) : CacheTrue s' := by
  obtain ⟨p, T, h1, h2, h3⟩ := h
  exact ⟨p, T, ht.trans h1, by rw [hp]; exact h2, by rw [hb, hk, hv, hi]; exact h3⟩

/-- The invariant is about a few fields of the state: cite this in place of comparing whole states. -/
theorem invariant_congr {s s' : State} (hm : s'.mem = s.mem) (hb : s'.blkbuf = s.blkbuf)
    (hv : s'.blkValid = s.blkValid) (hi : s'.blkidx = s.blkidx) (ht : s'.blktag = s.blktag)
    (hp : s'.params = s.params) (hk : s'.key = s.key) (hw : s'.iv = s.iv)
    (hs : s'.inProgress = s.inProgress ∧ s'.done = s.done ∨ s'.inProgress = none) (he : s'.err = s.err)
    (hu : s'.tierUsed = s.tierUsed) (h : Invariant s) : Invariant s' where
  memory := by rw [hm]; exact h.memory
  buffer := by rw [hb]; exact h.buffer
  cache := fun hc => cacheTrue_congr ht hp hb hk hw hi (h.cache (by rw [← hv]; exact hc))
  index := by rw [hi]; exact h.index
  issued := by
    intro hbusy
    rcases hs with ⟨h1, h2⟩ | h1
    · rw [h2, he]; exact h.issued (by unfold busy at *; rw [← h1]; exact hbusy)
    · simp [busy, h1] at hbusy
  legal := by
    intro w hw
    rcases hs with ⟨h1, -⟩ | h1
    · exact h.legal w (by rw [← h1]; exact hw)
    · rw [h1] at hw; cases hw
  named := by rw [he]; exact h.named
  tier := by rw [hu, hp]; exact h.tier

/-- A block has 4096 bytes (R222). -/
@[simp] theorem block_length (p : IntPrim) (T : Tier) (key : Vector Word 8) (iv : Vector Word 4) (b : DWord) :
    (block p T key iv b).length = blockSize :=
  keystream_length ..

/-- Fetching a block changes the cache and DIV only, and only on a miss (R224, R225). -/
theorem fetchBlock_cases (b : DWord) (p : IntPrim) (T : Tier) (s : State) :
    (hit b p T s = true ∧ fetchBlock b p T s = s) ∨ (hit b p T s = false ∧ fetchBlock b p T s = regenerate b p T s) := by
  unfold fetchBlock
  cases h : hit b p T s <;> simp

/-- A hit says what the cache holds (R224). -/
theorem hit_iff (b : DWord) (p : IntPrim) (T : Tier) (s : State) :
    hit b p T s = true ↔ s.blkValid = true ∧ s.blkidx = b ∧ s.blktag = blockTag p T := by
  simp [hit, and_assoc]

/-- After a fetch from a true cache the cache holds the block asked for (R225, R226). -/
theorem fetchBlock_holds {b : DWord} {p : IntPrim} {T : Tier} {s : State} (hc : s.blkValid = true → CacheTrue s) :
    (fetchBlock b p T s).blkbuf = block p T s.key s.iv b ∧ (fetchBlock b p T s).blkValid = true ∧
      (fetchBlock b p T s).blkidx = b ∧ (fetchBlock b p T s).blktag = blockTag p T := by
  rcases fetchBlock_cases b p T s with ⟨h, e⟩ | ⟨_, e⟩
  · rw [e]
    obtain ⟨hv, hi, ht⟩ := (hit_iff b p T s).mp h
    obtain ⟨p', T', ht', -, hb⟩ := hc hv
    obtain ⟨rfl, rfl⟩ := blockTag_inj (ht.symm.trans ht')
    exact ⟨hi ▸ hb, hv, hi, ht⟩
  · rw [e]; exact ⟨rfl, rfl, rfl, rfl⟩

/-- A fetch leaves everything but the cache and DIV alone. -/
theorem fetchBlock_frame (b : DWord) (p : IntPrim) (T : Tier) (s : State) :
    fetchBlock b p T s =
      { s with
        div := (fetchBlock b p T s).div
        blkbuf := (fetchBlock b p T s).blkbuf
        blkidx := (fetchBlock b p T s).blkidx
        blktag := (fetchBlock b p T s).blktag
        blkValid := (fetchBlock b p T s).blkValid } := by
  rcases fetchBlock_cases b p T s with ⟨_, e⟩ | ⟨_, e⟩ <;> rw [e]; rfl

/-- The apply loop leaves everything but memory, the cache and DIV alone (R227). -/
theorem applyLoop_frame (p : IntPrim) (T : Tier) (fuel left a pos : Nat) (s : State) :
    applyLoop p T fuel left a pos s =
      { s with
        mem := (applyLoop p T fuel left a pos s).mem
        div := (applyLoop p T fuel left a pos s).div
        blkbuf := (applyLoop p T fuel left a pos s).blkbuf
        blkidx := (applyLoop p T fuel left a pos s).blkidx
        blktag := (applyLoop p T fuel left a pos s).blktag
        blkValid := (applyLoop p T fuel left a pos s).blkValid } := by
  induction fuel generalizing left a pos s with
  | zero => rfl
  | succ fuel ih =>
    unfold applyLoop
    split
    · rfl
    · rw [ih, fetchBlock_frame]

/-- Nothing to go: the loop does nothing (R227, LEN = 0). -/
theorem applyLoop_nothing (p : IntPrim) (T : Tier) (fuel a pos : Nat) (s : State) :
    applyLoop p T fuel 0 a pos s = s := by
  cases fuel <;> rfl

/-- More fuel than bytes to go changes nothing (R227). -/
theorem applyLoop_fuel {p : IntPrim} {T : Tier} {fuel fuel' left a pos : Nat} {s : State} (h : left ≤ fuel)
    (h' : left ≤ fuel') : applyLoop p T fuel left a pos s = applyLoop p T fuel' left a pos s := by
  induction fuel generalizing fuel' left a pos s with
  | zero => rw [show left = 0 by omega, applyLoop_nothing, applyLoop_nothing]
  | succ fuel ih =>
    by_cases h0 : left = 0
    · rw [h0, applyLoop_nothing, applyLoop_nothing]
    · obtain ⟨f, rfl⟩ : ∃ f, fuel' = f + 1 := ⟨fuel' - 1, by omega⟩
      have hpos : pos % blockSize < blockSize := Nat.mod_lt _ (by decide)
      unfold applyLoop
      rw [if_neg h0, if_neg h0]
      exact ih (by omega) (by omega)

/-- A block just fetched is a hit (R224, R225). -/
theorem hit_fetchBlock (b : DWord) (p : IntPrim) (T : Tier) (s : State) (m : Memory) :
    hit b p T { fetchBlock b p T s with mem := m } = true := by
  rcases fetchBlock_cases b p T s with ⟨h, e⟩ | ⟨_, e⟩ <;> rw [e]
  · exact h
  · simp [hit, regenerate]

/-- The apply loop over m + n bytes is the loop over m bytes and then over n more: what the first leaves in the cache the
second hits (R238). -/
theorem applyLoop_add {p : IntPrim} {T : Tier} {fuel m n a pos : Nat} {s : State} (h : m + n ≤ fuel) :
    applyLoop p T fuel (m + n) a pos s = applyLoop p T fuel n (a + m) (pos + m) (applyLoop p T fuel m a pos s) := by
  induction fuel generalizing m n a pos s with
  | zero =>
    obtain rfl : m = 0 := by omega
    obtain rfl : n = 0 := by omega
    rfl
  | succ fuel ih =>
    by_cases hm : m = 0
    · subst hm; rw [applyLoop_nothing, Nat.zero_add]; rfl
    by_cases hn : n = 0
    · subst hn; rw [applyLoop_nothing]; rfl
    have hpos : pos % blockSize < blockSize := Nat.mod_lt _ (by decide)
    by_cases hr : blockSize - pos % blockSize ≤ m
    · rw [applyLoop_fuel (fuel := fuel + 1) (fuel' := fuel) (left := n) (by omega) (by omega)]
      conv_lhs => unfold applyLoop
      conv_rhs => arg 7; unfold applyLoop
      rw [if_neg (by omega), if_neg hm]
      dsimp only
      rw [min_eq_right (by omega), min_eq_right hr]
      rw [show m + n - (blockSize - pos % blockSize) = (m - (blockSize - pos % blockSize)) + n by omega, ih (by omega)]
      congr 1 <;> omega
    · have hb : (pos + m) / blockSize = pos / blockSize := by unfold blockSize at *; omega
      have ho : (pos + m) % blockSize = pos % blockSize + m := by unfold blockSize at *; omega
      have inner : applyLoop p T (fuel + 1) m a pos s =
          { fetchBlock (BitVec.ofNat 64 (pos / blockSize)) p T s with
            mem := xorBytes (fetchBlock (BitVec.ofNat 64 (pos / blockSize)) p T s).mem a
              (((fetchBlock (BitVec.ofNat 64 (pos / blockSize)) p T s).blkbuf.drop (pos % blockSize)).take m) } := by
        unfold applyLoop
        rw [if_neg hm]
        dsimp only
        rw [min_eq_left (by omega), Nat.sub_self, applyLoop_nothing]
      rw [inner]
      conv_lhs => unfold applyLoop
      conv_rhs => unfold applyLoop
      rw [if_neg (by omega), if_neg hn]
      dsimp only
      rw [hb, ho]
      have again : ∀ M, fetchBlock (BitVec.ofNat 64 (pos / blockSize)) p T
            { fetchBlock (BitVec.ofNat 64 (pos / blockSize)) p T s with mem := M } =
          { fetchBlock (BitVec.ofNat 64 (pos / blockSize)) p T s with mem := M } := fun M => by
        conv_lhs => unfold fetchBlock
        exact if_pos (hit_fetchBlock ..)
      rw [again]
      dsimp only
      rw [show min (m + n) (blockSize - pos % blockSize) = m + min n (blockSize - (pos % blockSize + m)) by omega, xorBytes_run]
      congr 1 <;> omega
/-- The keystream run of one iteration is the stream from its position on (R223). -/
theorem run_getD {p : IntPrim} {T : Tier} {key : Vector Word 8} {iv : Vector Word 4} {pos n i : Nat}
    (hn : n ≤ blockSize - pos % blockSize) (hi : i < n) :
    (((block p T key iv (BitVec.ofNat 64 (pos / blockSize))).drop (pos % blockSize)).take n).getD i 0 =
      streamByte p T key iv (pos + i) := by
  have h1 : (pos + i) / blockSize = pos / blockSize := by unfold blockSize at *; omega
  have h2 : (pos + i) % blockSize = pos % blockSize + i := by unfold blockSize at *; omega
  simp [streamByte, h1, h2, List.getD_eq_getElem?_getD, hi]

/-- All that the apply loop does, from a true cache (R227, R237): each byte of the run is XORed with the stream's byte at
its position, every other byte is as before, memory keeps its canonical form, and the cache stays true. -/
theorem applyLoop_spec {p : IntPrim} {T : Tier} {fuel left a pos : Nat} {s : State} (hf : left ≤ fuel)
    (hm : Memory.wf s.mem = true) (hc : s.blkValid = true → CacheTrue s) (hT : implemented s.params T = true)
    (ha : a + left ≤ 2 ^ 32) :
    Memory.wf (applyLoop p T fuel left a pos s).mem = true ∧
    ((applyLoop p T fuel left a pos s).blkValid = true → CacheTrue (applyLoop p T fuel left a pos s)) ∧
    (∀ b, readByte (applyLoop p T fuel left a pos s).mem b =
      if a ≤ b ∧ b < a + left then readByte s.mem b ^^^ streamByte p T s.key s.iv (pos + (b - a)) else readByte s.mem b) ∧
    (0 < left →
      (applyLoop p T fuel left a pos s).blkValid = true ∧
      (applyLoop p T fuel left a pos s).blktag = blockTag p T ∧
      (applyLoop p T fuel left a pos s).blkidx = BitVec.ofNat 64 ((pos + left - 1) / blockSize)) := by
  induction fuel generalizing left a pos s with
  | zero =>
    obtain rfl : left = 0 := by omega
    refine ⟨hm, hc, fun b => ?_, by simp⟩
    simp only [applyLoop]; rw [if_neg (by omega)]
  | succ fuel ih =>
    by_cases h0 : left = 0
    · subst h0
      rw [applyLoop_nothing]
      exact ⟨hm, hc, fun b => by rw [if_neg (by omega)], by simp⟩
    · set b0 : DWord := BitVec.ofNat 64 (pos / blockSize) with hb0
      set n := min left (blockSize - pos % blockSize) with hn
      have hpos : pos % blockSize < blockSize := Nat.mod_lt _ (by decide)
      have hn1 : 0 < n := by omega
      have hn2 : n ≤ left := by omega
      have hn3 : n ≤ blockSize - pos % blockSize := by omega
      obtain ⟨hbuf, hval, hidx, htag⟩ := fetchBlock_holds (b := b0) (p := p) (T := T) hc
      set s1 := fetchBlock b0 p T s with hs1
      have hfr := fetchBlock_frame b0 p T s
      rw [← hs1] at hfr
      have hkey : s1.key = s.key := by rw [hfr]
      have hiv : s1.iv = s.iv := by rw [hfr]
      have hmem : s1.mem = s.mem := by rw [hfr]
      have hpar : s1.params = s.params := by rw [hfr]
      set K := (s1.blkbuf.drop (pos % blockSize)).take n with hK
      have hKl : K.length = n := by
        rw [hK, hbuf]; simp; omega
      set s2 : State := { s1 with mem := xorBytes s1.mem a K } with hs2
      have hw2 : Memory.wf s2.mem = true := by
        rw [hs2]; simp only [hmem]; exact wf_xorBytes hm (by omega)
      have hc1 : CacheTrue s1 := ⟨p, T, htag, by rw [hpar]; exact hT, by rw [hkey, hiv, hidx]; exact hbuf⟩
      have hc2 : s2.blkValid = true → CacheTrue s2 := fun _ => hc1
      have e : applyLoop p T (fuel + 1) left a pos s = applyLoop p T fuel (left - n) (a + n) (pos + n) s2 := by
        conv_lhs => unfold applyLoop
        rw [if_neg h0]
      rw [e]
      obtain ⟨r1, r2, r3, r4⟩ := ih (left := left - n) (a := a + n) (pos := pos + n) (s := s2) (by omega) hw2 hc2
        (by rw [hs2]; simp only [hpar]; exact hT) (by omega)
      refine ⟨r1, r2, fun b => ?_, fun _ => ?_⟩
      · rw [r3]
        have hrd : ∀ b, readByte s2.mem b =
            if a ≤ b ∧ b < a + n then readByte s.mem b ^^^ streamByte p T s.key s.iv (pos + (b - a)) else readByte s.mem b := by
          intro b
          rw [hs2]; simp only [hmem]
          rw [readByte_xorBytes hm (by omega), hKl]
          by_cases hin : a ≤ b ∧ b < a + n
          · rw [if_pos hin, if_pos hin, hK, hbuf, run_getD hn3 (by omega)]
          · rw [if_neg hin, if_neg hin]
        have hk2 : s2.key = s.key := hkey
        have hi2 : s2.iv = s.iv := hiv
        rw [hk2, hi2, hrd]
        by_cases h1 : a + n ≤ b ∧ b < a + n + (left - n)
        · rw [if_pos h1, if_neg (by omega), if_pos (by omega)]
          congr 2; omega
        · rw [if_neg h1]
          by_cases h2 : a ≤ b ∧ b < a + n
          · rw [if_pos h2, if_pos (by omega)]
          · rw [if_neg h2, if_neg (by omega)]
      · by_cases hrest : 0 < left - n
        · obtain ⟨v, t, i⟩ := r4 hrest
          refine ⟨v, t, ?_⟩
          rw [i]; congr 2; omega
        · have hz : left - n = 0 := by omega
          rw [hz, applyLoop_nothing]
          refine ⟨hval, htag, ?_⟩
          show s1.blkidx = _
          rw [hidx, hb0]
          congr 1
          unfold blockSize at *
          omega

end Sys2Proof.Machine
end

