-- ==== Sys2Proof/Tests/Slice0.lean ====
section
/-! SUPPORT. Tests: ill-formed accesses, the decoding of written-out words, the spec's worked examples (expected values
from spec/, never from the model), and a witness for the hypotheses of every obligation that has some. -/

namespace Sys2Proof.Tests

set_option Elab.async false

open Sys2Proof Sys2Proof.Machine

/-! ### WellFormed: each check refuses an ill-formed access (10_state R20, R21)

No term of `Instr` is ill-formed: its only field is a tier request, and every TIER value is legal (30_encoding R88). -/

theorem test_access_of_two_bytes_refused : accessWellFormed 0x004 2 = false := by decide
theorem test_access_of_eight_bytes_refused : accessWellFormed 0x008 8 = false := by decide
theorem test_unaligned_access_refused : accessWellFormed 0x016 4 = false := by decide
theorem test_aligned_access_accepted : accessWellFormed 0xFFC 4 = true := by decide

/-! ### Decode: RSV, TIER, PRIM, OP written out bit by bit (30_encoding R80 .. R89) -/

theorem test_decode_plain :
  decode 0b00000000000000000000000000000000 = .ok .nop ∧
  decode 0b00000000000000000000000000000001 = .ok .mix ∧
  decode 0b00000000000000000000000000000110 = .ok .ivder ∧
  decode 0b00000000000000000000000000001000 = .ok .sinval := by decide
theorem test_decode_ksgen :
  decode 0b00000000000000000011000000000010 = .ok (.ksgenItent .w512) ∧
  decode 0b00000000000000000010000100000010 = .ok (.ksgenIlog .w256) ∧
  decode 0b00000000000000000001001000000010 = .ok (.ksgenIsine .scalar) ∧
  decode 0b00000000000000000000001100000010 = .ok (.ksgenIhenon .auto) ∧
  decode 0b00000000000000000011010000000010 = .ok (.ksgenIlorenz .w512) ∧
  decode 0b00000000000000000010010100000010 = .ok (.ksgenIchen .w256) := by decide
theorem test_decode_step_int :
  decode 0b00000000000000000001000000000011 = .ok (.stepItent .scalar) ∧
  decode 0b00000000000000000000000100000011 = .ok (.stepIlog .auto) ∧
  decode 0b00000000000000000011001000000011 = .ok (.stepIsine .w512) ∧
  decode 0b00000000000000000010001100000011 = .ok (.stepIhenon .w256) ∧
  decode 0b00000000000000000001010000000011 = .ok (.stepIlorenz .scalar) ∧
  decode 0b00000000000000000000010100000011 = .ok (.stepIchen .auto) := by decide
theorem test_decode_step_float :
  decode 0b00000000000000000011100000000011 = .ok (.stepFlog .w512) ∧
  decode 0b00000000000000000010100100000011 = .ok (.stepFtent .w256) ∧
  decode 0b00000000000000000001101000000011 = .ok (.stepFsine .scalar) ∧
  decode 0b00000000000000000000101100000011 = .ok (.stepFhenon .auto) ∧
  decode 0b00000000000000000011110000000011 = .ok (.stepFlorenz .w512) ∧
  decode 0b00000000000000000010110100000011 = .ok (.stepFchen .w256) := by decide
theorem test_decode_derive :
  decode 0b00000000000000000001000000000100 = .ok (.deriveItent .scalar) ∧
  decode 0b00000000000000000000000100000100 = .ok (.deriveIlog .auto) ∧
  decode 0b00000000000000000011001000000100 = .ok (.deriveIsine .w512) ∧
  decode 0b00000000000000000010001100000100 = .ok (.deriveIhenon .w256) ∧
  decode 0b00000000000000000001010000000100 = .ok (.deriveIlorenz .scalar) ∧
  decode 0b00000000000000000000010100000100 = .ok (.deriveIchen .auto) := by decide
theorem test_decode_process :
  decode 0b00000000000000000011000000000101 = .ok (.processItent .w512) ∧
  decode 0b00000000000000000010000100000101 = .ok (.processIlog .w256) ∧
  decode 0b00000000000000000001001000000101 = .ok (.processIsine .scalar) ∧
  decode 0b00000000000000000000001100000101 = .ok (.processIhenon .auto) ∧
  decode 0b00000000000000000011010000000101 = .ok (.processIlorenz .w512) ∧
  decode 0b00000000000000000010010100000101 = .ok (.processIchen .w256) := by decide
theorem test_decode_sapply :
  decode 0b00000000000000000000000000000111 = .ok (.sapplyItent .auto) ∧
  decode 0b00000000000000000011000100000111 = .ok (.sapplyIlog .w512) ∧
  decode 0b00000000000000000010001000000111 = .ok (.sapplyIsine .w256) ∧
  decode 0b00000000000000000001001100000111 = .ok (.sapplyIhenon .scalar) ∧
  decode 0b00000000000000000000010000000111 = .ok (.sapplyIlorenz .auto) ∧
  decode 0b00000000000000000011010100000111 = .ok (.sapplyIchen .w512) := by decide

theorem test_decode_rejects_reserved_bit : decode 0b00000000000000000100000000000000 = .error .reservedBitSet := by decide
theorem test_decode_rejects_reserved_op : decode 0b00000000000000000000000000001001 = .error .reservedOp := by decide
theorem test_decode_rejects_nop_with_prim : decode 0b00000000000000000000000100000000 = .error .primNotZero := by decide
theorem test_decode_rejects_mix_with_tier : decode 0b00000000000000000001000000000001 = .error .tierNotZero := by decide
theorem test_decode_rejects_float_ksgen : decode 0b00000000000000000000100000000010 = .error .notAnIntegerPrim := by decide
theorem test_decode_rejects_step_prim_14 : decode 0b00000000000000000000111000000011 = .error .reservedPrim := by decide

/-! ### A small machine -/

/-- A part with every tier, all memory but address 0x30 admitted, and the constants of the examples of R115, R116, R118. -/
def part : Params where
  hasW256 := true
  hasW512 := true
  admitted := [(0, 0x2F), (0x31, 0xFFFFFFFF)]
  sineR := 0x3FEFAE147AE147AE
  henonA := 0x3FF6666666666666
  henonB := 0x3FD3333333333333
  chenA := 0x4041800000000000
  chenB := 0x4008000000000000
  chenC := 0x403C000000000000
  chenDt := 0x3F50624DD2F1A9FC

/-- The key 00 01 .. 1F and the IV A0 A1 .. AF of the examples of 43_cipher. -/
def key0 : Vector Word 8 :=
  #v[0x03020100, 0x07060504, 0x0B0A0908, 0x0F0E0D0C, 0x13121110, 0x17161514, 0x1B1A1918, 0x1F1E1D1C]
def iv0 : Vector Word 4 := #v[0xA3A2A1A0, 0xA7A6A5A4, 0xABAAA9A8, 0xAFAEADAC]

/-- The reset state of that part with the key and the IV loaded and a buffer of 8 bytes at address 0x10. -/
def start : State :=
  { State.reset with params := part, keylen := 32, ivlen := 16, key := key0, iv := iv0, addr := 0x10, len := 8, cnt := 1 }

/-- A vector with its lane 0, and then lane 1, given. -/
def lanes (a b : Word) : Vector Word 16 := #v[a, b, 0, 0, 0, 0, 0, 0, 0, 0, 0, 0, 0, 0, 0, 0]

/-- The state after a command. -/
def after (i : Instr) (s : State) : State :=
  match exec i s with
  | .next t => t
  | .fault _ => s
  | .refused _ => s

/-- n bytes of memory from address 0x10 on. -/
def buffer (n : Nat) (s : State) : List Byte := (List.range n).map fun i => readByte s.mem (0x10 + i)

/-! ### NOP, MIX, IVDER, SINVAL: the examples of R140, R163, R234, R235 -/

theorem test_nop_status : statusWord (after .nop State.reset) = 0x00000002 := by decide +kernel
theorem test_mix : (after .mix { start with din := 0x12345678 }).dout = 0x9E92D143 := by decide +kernel
theorem test_ivder : (after .ivder { start with iv := #v[0x22222222, 0x22222222, 0x22222222, 0x22222222], spos := 0x0000102030405060 }).div =
    #v[0x20212627, 0x22222223, 0x22222222, 0x22222222] := by decide +kernel
theorem test_sinval : (after .sinval { start with blkValid := true }).blkValid = false := by decide +kernel

/-! ### KSGEN: the examples of R165 .. R170 -/

theorem test_ksgen_itent : word (after (.ksgenItent .scalar)
    { start with v0 := lanes 0x12345678 5, v1 := lanes 0x0 6, v2 := lanes 0x0 7 }).ks 0 = 0x9e92d143 := by decide +kernel
theorem test_ksgen_ilog : word (after (.ksgenIlog .scalar)
    { start with v0 := lanes 0xdeadbeef 5, v1 := lanes 0x0 6, v2 := lanes 0x0 7 }).ks 0 = 0xc0550785 := by decide +kernel
theorem test_ksgen_isine : word (after (.ksgenIsine .scalar)
    { start with v0 := lanes 0x80000000 5, v1 := lanes 0x0 6, v2 := lanes 0x0 7 }).ks 0 = 0xd71c38d4 := by decide +kernel
theorem test_ksgen_ihenon : word (after (.ksgenIhenon .scalar)
    { start with v0 := lanes 0x12345678 5, v1 := lanes 0x9abcdef0 6, v2 := lanes 0x0 7 }).ks 0 = 0x7a828aa6 := by decide +kernel
theorem test_ksgen_ilorenz : word (after (.ksgenIlorenz .scalar)
    { start with v0 := lanes 0x12345678 5, v1 := lanes 0x9abcdef0 6, v2 := lanes 0xf0f0f0f 7 }).ks 0 = 0x795f18a0 := by decide +kernel
theorem test_ksgen_ichen : word (after (.ksgenIchen .scalar)
    { start with v0 := lanes 0x1 5, v1 := lanes 0x2 6, v2 := lanes 0x4 7 }).ks 0 = 0x860d37a3 := by decide +kernel

/-! ### STEP: the examples of R142 .. R153 -/

theorem test_step_itent : (after (.stepItent .scalar) { start with cnt := 3, v0 := lanes 0x12345678 9 }).v0 = lanes 0xd025d283 9 := by decide +kernel
theorem test_step_ilog : (after (.stepIlog .scalar) { start with cnt := 3, v0 := lanes 0x12345678 9 }).v0 = lanes 0x375f3fa8 9 := by decide +kernel
theorem test_step_isine : (after (.stepIsine .scalar) { start with cnt := 3, v0 := lanes 0x12345678 9 }).v0 = lanes 0xb4829654 9 := by decide +kernel
theorem test_step_ihenon : laneAt (laneFile (after (.stepIhenon .scalar) { start with cnt := 3, v0 := lanes 0x12345678 9, v1 := lanes 0x9ABCDEF0 9 })) 0 =
    ⟨0xD6A15FA8, 0x3D97570A, 0⟩ := by decide +kernel
theorem test_step_ilorenz : laneAt (laneFile (after (.stepIlorenz .scalar) { start with cnt := 3, v0 := lanes 1 9, v1 := lanes 2 9, v2 := lanes 3 9 })) 0 =
    ⟨0x6FFFFFFE, 0x5FFFFFDF, 0x3FFFFFE4⟩ := by decide +kernel
theorem test_step_ichen : laneAt (laneFile (after (.stepIchen .scalar) { start with cnt := 3, v0 := lanes 1 9, v1 := lanes 2 9, v2 := lanes 3 9 })) 0 =
    ⟨0x0000009A, 0x0000016C, 0x000000F2⟩ := by decide +kernel
theorem test_step_flog : floatLane (after (.stepFlog .scalar) { start with v0 := lanes 0 0x3FE00000 }).v0 0 = 0x3FEFEB851EB851EC := by decide +kernel
theorem test_step_ftent : floatLane (after (.stepFtent .scalar) { start with v0 := lanes 0 0x3FD00000 }).v0 0 = 0x3FDFFF972474538F := by decide +kernel
theorem test_step_fsine : floatLane (after (.stepFsine .w256) { start with v0 := lanes 0 0x3FD00000 }).v0 0 = 0x3FE65CC3298FF65C := by decide +kernel
theorem test_step_fhenon : floatLaneAt (laneFile (after (.stepFhenon .scalar) start)) 0 = ⟨0x3FF0000000000000, 0, 0⟩ := by decide +kernel
theorem test_step_florenz : floatLaneAt (laneFile (after (.stepFlorenz .scalar)
    { start with v0 := lanes 0x9999999A 0x3FB99999, v1 := lanes 0x9999999A 0x3FB99999, v2 := lanes 0x9999999A 0x3FB99999 })) 0 =
    ⟨0x3FB999999999999A, 0x3FC03E425AEE6320, 0x3FB8F1641434F996⟩ := by decide +kernel
theorem test_step_fchen : floatLaneAt (laneFile (after (.stepFchen .scalar)
    { start with v0 := lanes 0x9999999A 0x3FB99999, v1 := lanes 0x9999999A 0x3FB99999, v2 := lanes 0x9999999A 0x3FB99999 })) 0 =
    ⟨0x3FB999999999999A, 0x3FBA2291FB3FA6DF, 0x3FB9869835158B83⟩ := by decide +kernel

/-! ### DERIVE and PROCESS: the examples of R194 .. R206 at SCALAR -/

theorem test_derive_itent : laneAt (laneFile (after (.deriveItent .scalar) start)) 0 = ⟨0x1E781F0F, 0, 0⟩ := by decide +kernel
theorem test_derive_ilog : laneAt (laneFile (after (.deriveIlog .scalar) start)) 0 = ⟨0x73590399, 0, 0⟩ := by decide +kernel
theorem test_derive_isine : laneAt (laneFile (after (.deriveIsine .scalar) start)) 0 = ⟨0xC92A1839, 0, 0⟩ := by decide +kernel
theorem test_derive_ihenon : laneAt (laneFile (after (.deriveIhenon .scalar) start)) 0 = ⟨0x509DC47A, 0x0C43F37B, 0⟩ := by decide +kernel
theorem test_derive_ilorenz : laneAt (laneFile (after (.deriveIlorenz .scalar) start)) 0 = ⟨0x91C2F039, 0xE5FFE747, 0x20042EF0⟩ := by decide +kernel
theorem test_derive_ichen : laneAt (laneFile (after (.deriveIchen .scalar) start)) 0 = ⟨0x6F6850D9, 0xAA6B173E, 0xD2C80867⟩ := by decide +kernel
theorem test_process_itent : buffer 8 (after (.processItent .scalar) start) = [0x04, 0x57, 0xCD, 0xE7, 0xBD, 0xDC, 0x90, 0x18] := by decide +kernel
theorem test_process_ilog : buffer 8 (after (.processIlog .scalar) start) = [0x81, 0x01, 0xC7, 0xEC, 0xF2, 0xB1, 0xBE, 0xFA] := by decide +kernel
theorem test_process_isine : buffer 8 (after (.processIsine .scalar) start) = [0x6B, 0x11, 0x9E, 0x61, 0xF4, 0x8A, 0x21, 0x99] := by decide +kernel
theorem test_process_ihenon : buffer 8 (after (.processIhenon .scalar) start) = [0xE8, 0x43, 0xE6, 0xED, 0x4F, 0xD2, 0x12, 0x19] := by decide +kernel
theorem test_process_ilorenz : buffer 8 (after (.processIlorenz .scalar) start) = [0x56, 0xD4, 0x62, 0x01, 0xDA, 0x30, 0xFA, 0x93] := by decide +kernel
theorem test_process_ichen : buffer 8 (after (.processIchen .scalar) start) = [0x56, 0x94, 0xB7, 0x6F, 0x6F, 0x37, 0xAA, 0x5E] := by decide +kernel
theorem test_process_access_fault : let t := after (.processItent .scalar) { start with addr := 0x2E }
    (t.err, t.erraddr, t.mem) = (.accessFault, 0x30, []) := by decide +kernel

/-! ### SAPPLY: the example of R228, and a hit -/

/-- The key 11 × 32 and the IV 22 × 16 of the examples of 44_stream. -/
def streamStart : State :=
  { start with
    key := #v[0x11111111, 0x11111111, 0x11111111, 0x11111111, 0x11111111, 0x11111111, 0x11111111, 0x11111111]
    iv := #v[0x22222222, 0x22222222, 0x22222222, 0x22222222] }

theorem test_sapply_itent : buffer 8 (after (.sapplyItent .scalar) streamStart) = [0xEB, 0xED, 0x23, 0x83, 0xA7, 0x14, 0x7C, 0xDF] := by decide +kernel
theorem test_sapply_ilog : buffer 8 (after (.sapplyIlog .scalar) streamStart) = [0xA2, 0x53, 0x14, 0x58, 0x5A, 0x14, 0x90, 0xD5] := by decide +kernel
theorem test_sapply_isine : buffer 8 (after (.sapplyIsine .scalar) streamStart) = [0xFF, 0xB7, 0x4A, 0xBE, 0x77, 0x27, 0x3E, 0x4C] := by decide +kernel
theorem test_sapply_ihenon : buffer 8 (after (.sapplyIhenon .scalar) streamStart) = [0xCA, 0x09, 0x4E, 0xA5, 0xC9, 0x07, 0xCA, 0xCE] := by decide +kernel
theorem test_sapply_ilorenz : buffer 8 (after (.sapplyIlorenz .scalar) streamStart) = [0x17, 0x2B, 0x21, 0x70, 0xFC, 0x54, 0xD1, 0xFE] := by decide +kernel
theorem test_sapply_ichen : buffer 8 (after (.sapplyIchen .scalar) streamStart) = [0x7D, 0x7D, 0x84, 0xBD, 0x2A, 0xD8, 0x9F, 0xF0] := by decide +kernel

/-! ### Other worked examples -/

/-- R181: an IV of six bytes, 01 02 03 04 05 06; what stands past them plays no part. -/
def iv6 : Vector Word 4 := #v[0x04030201, 0xFFFF0605, 0xFFFFFFFF, 0xFFFFFFFF]
theorem test_ivword_wraps_inside_the_iv :
    (ivWord iv6 6 0, ivWord iv6 6 1, ivWord iv6 6 2, ivWord iv6 6 3) =
      (0x04030201, 0x02010605, 0x06050403, 0x04030201) := by decide
/-- R207: the first bytes of the keystream at the three tiers. -/
theorem test_keystream_scalar : (keystream .itent .scalar key0 iv0 16 4).take 4 = [0x04, 0x57, 0xCD, 0xE7] := by
  decide +kernel
theorem test_keystream_w256 : (keystream .itent .w256 key0 iv0 16 32).take 4 = [0x44, 0x5A, 0xFB, 0xC8] := by
  decide +kernel
theorem test_keystream_w512 : (keystream .itent .w512 key0 iv0 16 64).take 4 = [0x98, 0xD5, 0xA7, 0x50] := by
  decide +kernel
/-- R92: texts of the rule's table, in lower case too. -/
theorem test_assembler :
    assemble "KSGEN.IHENON.W256" = some 0x00002302 ∧ assemble "derive.ilorenz" = some 0x00000404 ∧
    assemble "STEP.FLORENZ.S" = some 0x00001C03 ∧ assemble "NOP.S" = none := by decide +kernel
/-- R26, R290: a CMD write issues while BUSY = 0, and is dropped and sets IGN while BUSY = 1. -/
theorem test_second_issue_dropped :
    let t := writeRegister .cmd 0x1 (writeRegister .cmd 0x6 State.reset)
    (t.inProgress, t.ign) = (some 0x6, true) := by decide
/-- R89, R255: an ILLEGAL word written to CMD has completed when the write is done. -/
theorem test_illegal_word_completes_at_once :
    let t := writeRegister .cmd 0x9 { State.reset with err := .invalidKey }
    (t.inProgress, t.err, t.done) = (none, .illegalCmd, true) := by decide

/-! ### Witnesses: a state and operands that meet all the hypotheses of a statement together -/

/-- `start` with a command in progress. -/
def busyStart : State := { start with inProgress := some 0x00001005 }

/-! ### The host's duties (60_exceptions R270) -/

/-- R270, duty 10: one half of SPOS before a SAPPLY breaks it; both halves, or none, keep it. -/
theorem test_duty_10_seeks_whole :
    dutiesKept (wr 0x030 0x5 ++ wr 0x010 0x00001007) .none start = false ∧
    dutiesKept (seek 0x5 ++ wr 0x010 0x00001007) .none start = true ∧
    dutiesKept (wr 0x010 0x00001007) .none start = true := by decide +kernel
/-- R270, duties 5, 6 and 12: a CMD write and a read of DOUT while BUSY = 1, and a rejected address in the buffer. -/
theorem test_duties_5_6_12 :
    dutyKept (.write 0x010 4 0) busyStart = false ∧ dutyKept (.read 0x02C 4) busyStart = false ∧
    dutyKept (.read 0x00C 4) busyStart = true ∧ dutyKept (.write 0x010 4 0x00001005) { start with addr := 0x2E } = false ∧
    dutyKept (.write 0x010 4 0x00001005) start = true := by decide
/-- R270, duty 11: AUTO, or another tier, on one side breaks it. -/
theorem test_duty_11_pins_the_tier :
    pinnedAlike (wr 0x010 0x00001005) (wr 0x010 0x00001005) = true ∧
    pinnedAlike (wr 0x010 0x00001005) (wr 0x010 0x00002005) = false ∧
    pinnedAlike (wr 0x010 0x00000005) (wr 0x010 0x00000005) = false := by decide

theorem witness_IllegalCommandWords : busy start = false ∧ decode 0x9 = .error .reservedOp := by decide
theorem witness_StepRunsTheDecodedCommand :
    busyStart.inProgress = some 0x00001005 ∧ decode 0x00001005 = .ok (.processItent .scalar) ∧ busyStart.agenda = [] ∧
    ({ busyStart with agenda := [.engine] } : State).agenda = .engine :: [] ∧ busy start = false ∧ start.agenda = [] := by
  decide
theorem witness_IssueTakesTheCommandWord :
    busy start = false ∧ decode 0x00001005 = .ok (.processItent .scalar) ∧ decode 0x4000 = .error .reservedBitSet ∧
    busy busyStart = true := by decide
theorem witness_OnlyMalformedAccessesAreRefused :
    (∀ off width es, start.agenda = .read off width :: es → width = 4 ∧ off.toNat % 4 = 0) ∧
    (∀ off width v es, start.agenda = .write off width v :: es → width = 4 ∧ off.toNat % 4 = 0) ∧
    ¬ (4 = 4 ∧ (0x002 : BitVec 12).toNat % 4 = 0) ∧ ¬ (2 = 4 ∧ (0x004 : BitVec 12).toNat % 4 = 0) :=
  ⟨fun _ _ _ h => absurd h (List.cons_ne_nil _ _).symm, fun _ _ _ _ h => absurd h (List.cons_ne_nil _ _).symm,
    by decide, by decide⟩
theorem witness_OnlyMalformedAccessesAreRefused_duty :
    dutyKept (.write 0x008 4 1) busyStart = true ∧ dutyKept (.memLoad 0x18) busyStart = true ∧ busyStart.ign = false := by
  decide
theorem witness_ErrorsArePrecise :
    exec (.processItent .auto) State.reset = .next (after (.processItent .auto) State.reset) ∧
    (after (.processItent .auto) State.reset).err ≠ .ok := ⟨rfl, by decide⟩
/-- A buffer whose first admitted bytes are followed by the rejected address 0x30. -/
def faulting : State := { start with addr := 0x2E }
theorem witness_LowestRejectedAddressIsRecorded :
    32 ≤ faulting.keylen.toNat ∧ resolve faulting.params .scalar = some .scalar ∧
    faulting.addr.toNat + faulting.len.toNat ≤ 2 ^ 32 ∧ 2 < faulting.len.toNat ∧
    memAdmits faulting.params (faulting.addr.toNat + 2) = false ∧
    (∀ k < 2, memAdmits faulting.params (faulting.addr.toNat + k) = true) ∧
    faulting.ivlen.toNat ≤ 16 ∧ faulting.ivlen.toNat = 16 ∧ faulting.spos.toNat + faulting.len.toNat ≤ 2 ^ 64 := by decide
/-- A buffer that passes the last address by one byte. -/
def pastEnd : State := { start with addr := 0xFFFFFFF9 }
theorem witness_BufferNeverWraps :
    32 ≤ pastEnd.keylen.toNat ∧ resolve pastEnd.params .scalar = some .scalar ∧
    2 ^ 32 < pastEnd.addr.toNat + pastEnd.len.toNat ∧ pastEnd.ivlen.toNat ≤ 16 ∧ pastEnd.ivlen.toNat = 16 := by decide
/-- A part with the scalar tier only. -/
def scalarPart : State := { start with params := { part with hasW256 := false, hasW512 := false } }
theorem witness_TierResolution :
    part.hasW256 = true ∧ part.hasW512 = true ∧ scalarPart.params.hasW256 = false ∧ scalarPart.params.hasW512 = false ∧
    TierReq.w256 ≠ .auto ∧ resolve part .w256 = some .w256 ∧
    resolve { part with hasW512 := false } .w256 = some .w256 ∧
    resolve scalarPart.params .w512 = none ∧ resolve scalarPart.params .w256 = none ∧ 32 ≤ scalarPart.keylen.toNat := by
  decide
theorem witness_WriteChangesOneRegister :
    busy start = false ∧ (0x060 : BitVec 12).toNat % 4 = 0 ∧ (0x00C : BitVec 12).toNat % 4 = 0 ∧
    (0x060 : BitVec 12) ≠ 0x00C ∧ (0x060 : BitVec 12) ≠ 0x010 ∧ keyOrIvOffset 0x060 = true ∧
    keyOrIvOffset 0x08C = true ∧ keyOrIvOffset 0x090 = false ∧ keyOrIvOffset 0x05C = false := by decide
theorem witness_KeyAndIvWritesInvalidate : busy start = false ∧ (0x024 : BitVec 12).toNat % 4 = 0 := by decide
theorem witness_WritesWhileBusyAreDropped :
    busy busyStart = true ∧ (0x008 : BitVec 12).toNat % 4 = 0 ∧ (0x00C : BitVec 12).toNat % 4 = 0 ∧
    (0xFFC : BitVec 12).toNat % 4 = 0 := by decide
theorem witness_ReadsWhileBusy :
    busy busyStart = true ∧ (0x00C : BitVec 12).toNat % 4 = 0 ∧ (0x044 : BitVec 12).toNat % 4 = 0 ∧
    (0x090 ≤ (0x090 : BitVec 12).toNat ∧ (0x09C : BitVec 12).toNat < 0x0A0) ∧
    (0x100 ≤ (0x100 : BitVec 12).toNat ∧ (0x1FC : BitVec 12).toNat < 0x200) ∧
    (0x048 ≤ (0x08C : BitVec 12).toNat ∧ (0x08C : BitVec 12).toNat < 0x090) ∧
    (0x0A0 ≤ (0x0FC : BitVec 12).toNat ∧ (0x0FC : BitVec 12).toNat < 0x100) ∧ 0x200 ≤ (0x200 : BitVec 12).toNat := by decide
theorem witness_IdleReadReturnsTheRegister :
    busy start = false ∧ (0x044 : BitVec 12).toNat % 4 = 0 ∧ 7 < 8 ∧ 3 < 4 ∧ 15 < 16 ∧ 0xFFC < 0x1000 ∧
    (0x048 ≤ 0x048 ∧ 0x05C < 0x060) ∧ (0x0A0 ≤ 0x0A0 ∧ 0x0FC < 0x100) ∧ 0x200 ≤ 0x200 := by decide
theorem witness_InterruptFollowsDoneAndEnable :
    (0x2 : Word).getLsbD 1 = true ∧ busy start = false ∧ decode 0x1 = .ok .mix ∧ decode 0x101 = .error .primNotZero := by
  decide
theorem witness_ResetClearsEveryRegister :
    step { busyStart with agenda := [.reset] } = .next (assertReset { busyStart with agenda := [] }) := rfl
theorem witness_ResetKeepsDataMemory :
    Memory.wf busyStart.mem = true ∧
    step { busyStart with agenda := [.reset] } = .next (assertReset { busyStart with agenda := [] }) := ⟨rfl, rfl⟩
theorem witness_RacedBufferBytesAreFree :
    Memory.wf busyStart.mem = true ∧ inBusyBuffer 0x10 busyStart = true ∧ inBusyBuffer 0x17 busyStart = true ∧
    inBusyBuffer 0x0F busyStart = false ∧ inBusyBuffer 0x18 busyStart = false := by decide
theorem witness_OnlyTheBufferChanges :
    Memory.wf start.mem = true ∧
    exec (.processItent .scalar) start = .next (after (.processItent .scalar) start) ∧
    ¬ (start.addr.toNat ≤ 0x18 ∧ 0x18 < start.addr.toNat + start.len.toNat) ∧
    exec .nop start = .next (after .nop start) ∧ (∀ q p, Instr.nop ≠ processOf q p ∧ Instr.nop ≠ sapplyOf q p) :=
  ⟨rfl, rfl, by decide, rfl, fun q p => by cases p <;> exact ⟨fun h => (by cases h), fun h => (by cases h)⟩⟩
theorem witness_CommandWritesOnlyItsState :
    exec .mix start = .next (after .mix start) ∧ (opField (encode .mix)).toNat = 1 := ⟨rfl, by decide⟩
theorem witness_RoundingIsNearestTiesToEven : 0 < 2 ∧ roundUnits 3 2 < infMagnitude ∧ 5 < infMagnitude := by decide +kernel
theorem witness_NaNResultsAreTheFreeOnes :
    isNaN (0x7FF8000000000000 : F64) = true ∧ isNaN (fadd 0x7FF8000000000000 0x7FF0000000000000 0xFFF0000000000000) = true := by
  decide +kernel
theorem witness_FloatCorners :
    part.sineR = 0x3FEFAE147AE147AE ∧ part.henonA = 0x3FF6666666666666 ∧ part.henonB = 0x3FD3333333333333 ∧
    part.chenA = 0x4041800000000000 ∧ part.chenB = 0x4008000000000000 ∧ part.chenC = 0x403C000000000000 ∧
    part.chenDt = 0x3F50624DD2F1A9FC := by decide
/-- The finite values 1 and −0, the infinities, and a NaN. -/
theorem witness_FloatOperationsRoundTheExactResult :
    ((0x3FF0000000000000#64).toNat / 2 ^ 52 % 2 ^ 11 < 2047 ∧ (0x8000000000000000#64).toNat / 2 ^ 52 % 2 ^ 11 < 2047) ∧
    ((0x7FF0000000000000#64).toNat % 2 ^ 63 = 2047 * 2 ^ 52 ∧ (0xFFF0000000000000#64).toNat % 2 ^ 63 = 2047 * 2 ^ 52) ∧
    isNaN 0x7FF8000000000000 = true := ⟨by simp, by simp, by decide⟩
theorem witness_KsgenWritesTheMixedLanes : resolve start.params .auto = some .w512 := by decide
theorem witness_StepOneDimensional : resolve start.params .w256 = some .w256 := by decide
theorem witness_StepTwoDimensional : resolve start.params .scalar = some .scalar := by decide
theorem witness_StepThreeDimensional : resolve scalarPart.params .auto = some .scalar := by decide
theorem witness_StepFloatOneDimensional : resolve start.params .w512 = some .w512 := by decide
theorem witness_StepFloatManyDimensional : resolve start.params .w256 = some .w256 := by decide
theorem witness_StepsCompose : resolve start.params .w256 = some .w256 ∧ 0xFFFFFFFE + 1 < 2 ^ 32 := by decide

theorem start_cipherReady : CipherReady .w512 .w512 start := ⟨by decide, rfl, by decide⟩
theorem start_bufferReady : BufferReady start := ⟨by decide, by decide⟩
theorem start_streamReady : StreamReady .scalar .scalar start := ⟨by decide, rfl, by decide, start_bufferReady, by decide⟩
theorem start_invariant : Invariant start where
  memory := rfl
  buffer := reset_blkbuf_length
  cache := fun h => by cases h
  index := by decide
  issued := fun h => by cases h
  legal := fun _ h => by cases h
  named := by decide
  tier := fun _ h => by cases h
/-- `start` with block 0 in the cache. -/
def cached : State := regenerate 0 .itent .scalar start
theorem cached_invariant : Invariant cached where
  memory := rfl
  buffer := block_length ..
  cache := fun _ => ⟨.itent, .scalar, rfl, rfl, rfl⟩
  index := by show (0 : DWord).toNat < 2 ^ 52; decide
  issued := fun h => by cases h
  legal := fun _ h => by cases h
  named := by show ErrCode.ok ≠ .shapeMismatch ∧ ErrCode.ok ≠ .invalidRange; decide
  tier := fun _ h => by cases h

theorem witness_DeriveWritesTheSeeds : CipherReady .w512 .w512 start := start_cipherReady
theorem witness_PreSeedsFollowKeyAndIv :
    3 < 4 ∧ 4 ≤ 4 ∧ (∀ j < 6, ivByte iv6 j = ivByte #v[0x04030201, 0x00000605, 0, 0] j) := by decide
theorem witness_WarmUpIsInPlace :
    0 < [laneAt (laneFile start) 0].length ∧ [laneAt (laneFile start) 0].length = 1 ∧
    0 + 1 < [laneAt (laneFile start) 0, ⟨1, 1, 1⟩].length ∧ 1 < [laneAt (laneFile start) 0, ⟨1, 1, 1⟩].length := by
  refine ⟨?_, ?_, ?_, ?_⟩ <;> simp
theorem witness_KeystreamByteFormula :
    31 < 33 ∧ 31 < 33 / stride .w256 * stride .w256 ∧ 32 < 33 ∧ ¬ 32 < 33 / stride .w256 * stride .w256 := by decide
theorem witness_ProcessXorsTheKeystream :
    CipherReady .w512 .w512 start ∧ BufferReady start ∧ Memory.wf start.mem = true ∧
    (start.addr.toNat ≤ 0x17 ∧ 0x17 < start.addr.toNat + start.len.toNat) :=
  ⟨start_cipherReady, start_bufferReady, rfl, by decide⟩
theorem witness_ProcessIsAnInvolution :
    CipherReady .w512 .w512 start ∧ BufferReady start ∧ Memory.wf start.mem = true :=
  ⟨start_cipherReady, start_bufferReady, rfl⟩
theorem witness_KeystreamIgnoresBufferAndLanes :
    exec (.sapplyItent .scalar) start = .next (after (.sapplyItent .scalar) start) ∧
    Instr.sapplyItent .scalar ∈ [processOf .scalar .itent, sapplyOf .scalar .itent] ∧
    Memory.wf start.mem = true ∧ Memory.wf [(0x10, 0x55)] = true := ⟨rfl, by decide, rfl, rfl⟩
theorem witness_DeriveStepKsgenIsTheKeystream : CipherReady .w512 .w512 start ∧ stride .w512 ≤ 64 :=
  ⟨start_cipherReady, by decide⟩
theorem witness_SapplyIsPositionIndependent :
    StreamReady .scalar .scalar start ∧ Invariant start ∧ StreamReady .scalar .scalar cached ∧ Invariant cached ∧
    start.len ≠ 0 ∧ StreamReady .scalar .scalar { start with len := 0 } :=
  ⟨start_streamReady, start_invariant, ⟨by decide, rfl, by decide, ⟨by decide, by decide⟩, by decide⟩, cached_invariant,
    by decide, ⟨by decide, rfl, by decide, ⟨by decide, by decide⟩, by decide⟩⟩
theorem witness_DivTellsAHitFromAMiss :
    StreamReady .scalar .scalar start ∧ 0 < start.len.toNat ∧ start.blkValid = false ∧
    exec (sapplyOf .scalar .itent) start = .next (after (sapplyOf .scalar .itent) start) ∧
    StreamReady .scalar .scalar cached ∧ 0 < cached.len.toNat ∧ cached.blkValid = true ∧ cached.blkidx = 0 ∧
    cached.blktag = blockTag .itent .scalar ∧ cached.spos.toNat / 4096 = (cached.spos.toNat + cached.len.toNat - 1) / 4096 :=
  ⟨start_streamReady, by decide, rfl, rfl, ⟨by decide, rfl, by decide, ⟨by decide, by decide⟩, by decide⟩, by decide, rfl,
    rfl, rfl, by decide⟩
theorem witness_SapplyIsAdditive :
    start.len.toNat = 3 + 5 ∧ StreamReady .scalar .scalar start ∧ Invariant start :=
  ⟨by decide, start_streamReady, start_invariant⟩
theorem witness_StepKeepsTheInvariant : Invariant start ∧ step start = .next start := ⟨start_invariant, rfl⟩
theorem witness_ParametersNeverChange : step start = .next start := rfl

end Sys2Proof.Tests
end

section
/-! Proofs of the scope statements: the step as the meaning of the command in progress (00_scope R16), and the
parameters of the part as a field that nothing writes (00_scope R5, R9). -/

namespace Sys2Proof.Machine

/-! ### The engine's turn by its three arms, and the steps that come to it (30_encoding R88, 60_exceptions R263) -/

theorem engineTurn_idle {s : State} (hidle : s.inProgress = none) : engineTurn s = .next s := by
  simp [engineTurn, hidle]

theorem engineTurn_legal {s : State} {w : Word} {i : Instr} (hw : s.inProgress = some w) (hd : decode w = .ok i) :
    engineTurn s = exec i s := by
  simp [engineTurn, hw, hd]

theorem step_agenda_nil {s : State} (ha : s.agenda = []) : step s = engineTurn s := by
  simp [step, ha]

theorem step_agenda_engine {s : State} {es : List Event} (ha : s.agenda = .engine :: es) :
    step s = engineTurn { s with agenda := es } := by
  simp [step, ha, applyEvent]

theorem inProgress_eq_none_of_not_busy {s : State} (hb : busy s = false) : s.inProgress = none := by
  simpa [busy] using hb

theorem acceptCommand_legal {w : Word} {i : Instr} (s : State) (hd : decode w = .ok i) :
    acceptCommand w s = issue w s := by
  simp [acceptCommand, hd]

/-- A legal word given whole is issued, with nothing else to come (log 1). -/
theorem withFetchWord_legal {w : Word} {i : Instr} (s : State) (hd : decode w = .ok i) :
    s.withFetchWord 32 w.toNat = { issue w s with agenda := [] } := by
  have hword : BitVec.ofNat 32 (w.toNat % 2 ^ 32) = w := by
    rw [Nat.mod_eq_of_lt w.isLt, BitVec.ofNat_toNat, BitVec.setWidth_eq]
  rw [State.withFetchWord, hword, acceptCommand_legal s hd]

/-- Settles O5: each form of the engine's turn reaches `engineTurn`, whose arm for a legal word is `exec`. -/
theorem stepRunsTheDecodedCommand : Obligations.StepRunsTheDecodedCommand := by
  refine ⟨fun s w i hw hd => ⟨fun ha => ?_, fun es ha => ?_⟩, fun s w i hd => ?_, fun s hb ha => ?_⟩
  · rw [step_agenda_nil ha, engineTurn_legal hw hd]
  · rw [step_agenda_engine ha]
    exact engineTurn_legal hw hd
  · rw [withFetchWord_legal s hd, step_agenda_nil rfl]
    exact engineTurn_legal (issue_inProgress w s) hd
  · rw [step_agenda_nil ha, engineTurn_idle (inProgress_eq_none_of_not_busy hb)]

/-! ### The shared meanings keep the parameters of the part -/

@[simp] theorem ksgen_params (p : IntPrim) (t : TierReq) (s : State) : (ksgen p t s).params = s.params := by
  rcases ksgen_cases p t s with ⟨-, h⟩ | ⟨T, -, h⟩ <;> simp [h]

@[simp] theorem stepInt_params (p : IntPrim) (t : TierReq) (s : State) : (stepInt p t s).params = s.params := by
  rcases stepInt_cases p t s with ⟨-, h⟩ | ⟨T, -, h⟩ <;> simp [h]

@[simp] theorem stepFloat_params (p : FloatPrim) (t : TierReq) (s : State) : (stepFloat p t s).params = s.params := by
  rcases stepFloat_cases p t s with ⟨-, h⟩ | ⟨T, -, h⟩ <;> simp [h]

@[simp] theorem derive_params (p : IntPrim) (t : TierReq) (s : State) : (derive p t s).params = s.params := by
  rcases derive_cases p t s with ⟨-, h⟩ | ⟨-, -, h⟩ | ⟨T, -, -, -, h⟩ <;> simp [h]

@[simp] theorem process_params (p : IntPrim) (t : TierReq) (s : State) : (process p t s).params = s.params := by
  rcases process_cases p t s with ⟨-, h⟩ | ⟨-, -, h⟩ | ⟨T, a, -, -, -, -, -, h⟩ | ⟨T, -, -, -, -, -, h⟩ <;> simp [h]

@[simp] theorem applyLoop_params (p : IntPrim) (T : Tier) (fuel left a pos : Nat) (s : State) :
    (applyLoop p T fuel left a pos s).params = s.params := by
  rw [applyLoop_frame]

@[simp] theorem sapply_params (p : IntPrim) (t : TierReq) (s : State) : (sapply p t s).params = s.params := by
  rcases sapply_cases p t s with ⟨-, h⟩ | ⟨-, -, h⟩ | ⟨T, a, -, -, -, -, -, -, h⟩ | ⟨T, -, -, -, -, -, -, h⟩ <;> simp [h]

/-- No command changes the parameters of the part. -/
theorem exec_params {i : Instr} {s t : State} (h : exec i s = .next t) : t.params = s.params := by
  rcases instr_cases i with rfl | rfl | rfl | rfl | ⟨r, p, rfl⟩ | ⟨r, p, rfl⟩ | ⟨r, p, rfl⟩ | ⟨r, p, rfl⟩ | ⟨r, p, rfl⟩ |
    ⟨r, p, rfl⟩
  all_goals
    simp only [exec_nop, exec_mix, exec_ivder, exec_sinval, exec_ksgenOf, exec_stepIntOf, exec_stepFloatOf,
      exec_deriveOf, exec_processOf, exec_sapplyOf, Host.Outcome.next.injEq] at h
    subst h
  · exact complete_params ..
  · exact complete_params ..
  · exact complete_params ..
  · exact complete_params ..
  · exact ksgen_params p r s
  · exact stepInt_params p r s
  · exact stepFloat_params p r s
  · exact derive_params p r s
  · exact process_params p r s
  · exact sapply_params p r s

/-! ### Every step keeps the parameters of the part -/

theorem engineTurn_params {s t : State} (h : engineTurn s = .next t) : t.params = s.params := by
  rcases engineTurn_cases s with ⟨-, e⟩ | ⟨w, i, -, -, e⟩ | ⟨w, r, -, -, e⟩ <;> rw [e] at h
  · cases h; rfl
  · exact exec_params h
  · cases h; exact illegalCommand_params s

@[simp] theorem acceptCommand_params (w : Word) (s : State) : (acceptCommand w s).params = s.params := by
  rcases acceptCommand_cases w s with ⟨i, -, e⟩ | ⟨r, -, e⟩ <;> rw [e]

/-- Only the write to CMD runs anything; every other write is one record update. -/
@[simp] theorem writeReg_params (r : Reg) (v : Word) (s : State) : (writeReg r v s).params = s.params := by
  cases r with
  | cmd => exact acceptCommand_params v s
  | _ => rfl

@[simp] theorem writeRegister_params (r : Reg) (v : Word) (s : State) : (writeRegister r v s).params = s.params := by
  unfold writeRegister
  split
  · rfl
  · exact writeReg_params r v s

/-- No step changes the parameters of the part (log 3). -/
theorem step_params {s t : State} (h : step s = .next t) : t.params = s.params := by
  rcases step_cases h with ⟨-, he⟩ | ⟨es, -, he⟩ | ⟨off, es, -, -, rfl⟩ | ⟨off, v, es, -, -, rfl⟩ | ⟨a, es, -, rfl⟩ |
    ⟨a, b, es, -, rfl⟩ | ⟨es, -, rfl⟩
  · exact engineTurn_params he
  · exact (engineTurn_params he :)
  · rfl
  · exact writeRegister_params ..
  · rfl
  · rfl
  · exact assertReset_params _

/-- CAP is a function of the parameters (10_state R23). -/
theorem readReg_cap_congr {s t : State} (hp : t.params = s.params) : readReg .cap t = readReg .cap s := by
  simp only [readReg, hp]

/-- Settles O59: `step_params`, with ID a constant and CAP a function of the parameters (10_state R22, R23). -/
theorem parametersNeverChange : Obligations.ParametersNeverChange := by
  intro s t h
  have hp : t.params = s.params := step_params h
  exact ⟨hp, rfl, readReg_cap_congr hp⟩

end Sys2Proof.Machine
end

section
/-! The frame of each shared meaning, of a command and of a register write: which fields can differ at all (10_state
section 9). Each field of a frame that a proof needs is then read off by `rw`. -/

namespace Sys2Proof.Machine

theorem ksgen_frame (p : IntPrim) (t : TierReq) (s : State) :
    ksgen p t s =
      { s with
        err := (ksgen p t s).err
        done := true
        inProgress := none
        tierUsed := (ksgen p t s).tierUsed
        ks := (ksgen p t s).ks } := by
  rcases ksgen_cases p t s with ⟨-, h⟩ | ⟨T, -, h⟩ <;> rw [h] <;> rfl

theorem stepInt_frame (p : IntPrim) (t : TierReq) (s : State) :
    stepInt p t s =
      { s with
        err := (stepInt p t s).err
        done := true
        inProgress := none
        tierUsed := (stepInt p t s).tierUsed
        v0 := (stepInt p t s).v0
        v1 := (stepInt p t s).v1
        v2 := (stepInt p t s).v2 } := by
  rcases stepInt_cases p t s with ⟨-, h⟩ | ⟨T, -, h⟩ <;> rw [h] <;> rfl

theorem stepFloat_frame (p : FloatPrim) (t : TierReq) (s : State) :
    stepFloat p t s =
      { s with
        err := (stepFloat p t s).err
        done := true
        inProgress := none
        tierUsed := (stepFloat p t s).tierUsed
        v0 := (stepFloat p t s).v0
        v1 := (stepFloat p t s).v1
        v2 := (stepFloat p t s).v2
        freeIdx := (stepFloat p t s).freeIdx } := by
  rcases stepFloat_cases p t s with ⟨-, h⟩ | ⟨T, -, h⟩ <;> rw [h] <;> rfl

theorem derive_frame (p : IntPrim) (t : TierReq) (s : State) :
    derive p t s =
      { s with
        err := (derive p t s).err
        done := true
        inProgress := none
        tierUsed := (derive p t s).tierUsed
        v0 := (derive p t s).v0
        v1 := (derive p t s).v1
        v2 := (derive p t s).v2 } := by
  rcases derive_cases p t s with ⟨-, h⟩ | ⟨-, -, h⟩ | ⟨T, -, -, -, h⟩ <;> rw [h] <;> rfl

theorem process_frame (p : IntPrim) (t : TierReq) (s : State) :
    process p t s =
      { s with
        err := (process p t s).err
        done := true
        inProgress := none
        tierUsed := (process p t s).tierUsed
        erraddr := (process p t s).erraddr
        mem := (process p t s).mem } := by
  rcases process_cases p t s with ⟨-, h⟩ | ⟨-, -, h⟩ | ⟨T, a, -, -, -, -, -, h⟩ | ⟨T, -, -, -, -, -, h⟩ <;>
    rw [h] <;> rfl

theorem sapply_frame (p : IntPrim) (t : TierReq) (s : State) :
    sapply p t s =
      { s with
        err := (sapply p t s).err
        done := true
        inProgress := none
        tierUsed := (sapply p t s).tierUsed
        erraddr := (sapply p t s).erraddr
        spos := (sapply p t s).spos
        mem := (sapply p t s).mem
        div := (sapply p t s).div
        blkbuf := (sapply p t s).blkbuf
        blkidx := (sapply p t s).blkidx
        blktag := (sapply p t s).blktag
        blkValid := (sapply p t s).blkValid } := by
  rcases sapply_cases p t s with ⟨-, h⟩ | ⟨-, -, h⟩ | ⟨T, a, -, -, -, -, -, -, h⟩ | ⟨T, -, -, -, -, -, -, h⟩ <;> rw [h]
  · rfl
  · rfl
  · rfl
  · rw [applyLoop_frame]; rfl

/-- All that a command that goes on can be: one of the four plain ones with its update, or a member of a family with the
family's shared meaning (R91). -/
theorem exec_cases {i : Instr} {s t : State} (h : exec i s = .next t) :
    (i = .nop ∧ t = complete .ok s) ∨
    (i = .mix ∧ t = complete .ok { s with dout := mix s.din }) ∨
    (i = .ivder ∧ t = complete .ok { s with div := deriveIv s.iv (s.spos >>> 12) }) ∨
    (i = .sinval ∧ t = complete .ok { s with blkValid := false }) ∨
    (∃ r p, i = ksgenOf r p ∧ t = ksgen p r s) ∨
    (∃ r p, i = stepIntOf r p ∧ t = stepInt p r s) ∨
    (∃ r p, i = stepFloatOf r p ∧ t = stepFloat p r s) ∨
    (∃ r p, i = deriveOf r p ∧ t = derive p r s) ∨
    (∃ r p, i = processOf r p ∧ t = process p r s) ∨
    ∃ r p, i = sapplyOf r p ∧ t = sapply p r s := by
  rcases instr_cases i with rfl | rfl | rfl | rfl | ⟨r, p, rfl⟩ | ⟨r, p, rfl⟩ | ⟨r, p, rfl⟩ | ⟨r, p, rfl⟩ | ⟨r, p, rfl⟩ |
    ⟨r, p, rfl⟩
  all_goals
    simp only [exec_nop, exec_mix, exec_ivder, exec_sinval, exec_ksgenOf, exec_stepIntOf, exec_stepFloatOf,
      exec_deriveOf, exec_processOf, exec_sapplyOf, Host.Outcome.next.injEq] at h
    subst h
  · exact .inl ⟨rfl, rfl⟩
  · exact .inr (.inl ⟨rfl, rfl⟩)
  · exact .inr (.inr (.inl ⟨rfl, rfl⟩))
  · exact .inr (.inr (.inr (.inl ⟨rfl, rfl⟩)))
  · exact .inr (.inr (.inr (.inr (.inl ⟨r, p, rfl, rfl⟩))))
  · exact .inr (.inr (.inr (.inr (.inr (.inl ⟨r, p, rfl, rfl⟩)))))
  · exact .inr (.inr (.inr (.inr (.inr (.inr (.inl ⟨r, p, rfl, rfl⟩))))))
  · exact .inr (.inr (.inr (.inr (.inr (.inr (.inr (.inl ⟨r, p, rfl, rfl⟩)))))))
  · exact .inr (.inr (.inr (.inr (.inr (.inr (.inr (.inr (.inl ⟨r, p, rfl, rfl⟩))))))))
  · exact .inr (.inr (.inr (.inr (.inr (.inr (.inr (.inr (.inr ⟨r, p, rfl, rfl⟩))))))))

/-- All that an accepted CMD write can change: BUSY with the word in progress, DONE and ERR (R26, R89). -/
theorem acceptCommand_frame (w : Word) (s : State) :
    acceptCommand w s =
      { s with
        inProgress := (acceptCommand w s).inProgress
        done := (acceptCommand w s).done
        err := (acceptCommand w s).err } := by
  rcases acceptCommand_cases w s with ⟨i, -, h⟩ | ⟨e, -, h⟩ <;> rw [h]

/-- All that a register write can change: the fields that a host can write, and BLK_VALID (R20). -/
theorem writeReg_frame (r : Reg) (v : Word) (s : State) :
    writeReg r v s =
      { s with
        ie := (writeReg r v s).ie
        done := (writeReg r v s).done
        ign := (writeReg r v s).ign
        err := (writeReg r v s).err
        blkValid := (writeReg r v s).blkValid
        inProgress := (writeReg r v s).inProgress
        addr := (writeReg r v s).addr
        len := (writeReg r v s).len
        cnt := (writeReg r v s).cnt
        keylen := (writeReg r v s).keylen
        ivlen := (writeReg r v s).ivlen
        din := (writeReg r v s).din
        spos := (writeReg r v s).spos
        key := (writeReg r v s).key
        iv := (writeReg r v s).iv
        v0 := (writeReg r v s).v0
        v1 := (writeReg r v s).v1
        v2 := (writeReg r v s).v2 } := by
  cases r with
  | cmd => simp only [writeReg]; rw [acceptCommand_frame]
  | _ => rfl

end Sys2Proof.Machine
end

section
/-! Proof that every step keeps the invariant of the block (10_state R45, 44_stream R220, R226): the invariant falls into
four groups of fields, memory, cache, status and TIER_USED, and each operation writes some of the groups. -/

namespace Sys2Proof.Machine

/-! ### The invariant by groups of fields -/

/-- A state that agrees in the fields of the invariant has it. -/
theorem Invariant.unwritten {s s' : State} (h : Invariant s)
    (hm : s'.mem = s.mem := by rfl) (hb : s'.blkbuf = s.blkbuf := by rfl) (hv : s'.blkValid = s.blkValid := by rfl)
    (hi : s'.blkidx = s.blkidx := by rfl) (ht : s'.blktag = s.blktag := by rfl) (hp : s'.params = s.params := by rfl)
    (hk : s'.key = s.key := by rfl) (hw : s'.iv = s.iv := by rfl) (hs : s'.inProgress = s.inProgress := by rfl)
    (hd : s'.done = s.done := by rfl) (he : s'.err = s.err := by rfl) (hu : s'.tierUsed = s.tierUsed := by rfl) :
    Invariant s' :=
  invariant_congr hm hb hv hi ht hp hk hw (.inl ⟨hs, hd⟩) he hu h

/-- The memory group. -/
theorem Invariant.withMem {s : State} (h : Invariant s) {m : Memory} (hm : Memory.wf m = true) :
    Invariant { s with mem := m } :=
  { h with memory := hm }

/-- The cache group, invalidated: the key and the IV are then free to change (R48). -/
theorem Invariant.withoutBlock {s : State} (h : Invariant s) (k : Vector Word 8) (v : Vector Word 4) :
    Invariant { s with blkValid := false, key := k, iv := v } :=
  { h with cache := fun hv => by cases hv }

/-- The status group (R26, R89, R250). -/
theorem Invariant.withStatus {s : State} (h : Invariant s) {w : Option Word} {d : Bool} {e : ErrCode}
    (hissued : w.isSome = true → d = false ∧ e = .ok) (hlegal : ∀ c, w = some c → ∃ i, decode c = .ok i)
    (hnamed : e ≠ .shapeMismatch ∧ e ≠ .invalidRange) :
    Invariant { s with inProgress := w, done := d, err := e } :=
  { h with issued := hissued, legal := hlegal, named := hnamed }

/-- The TIER_USED group (R25). -/
theorem Invariant.withTier {s : State} (h : Invariant s) {T : Tier} (hT : implemented s.params T = true) :
    Invariant { s with tierUsed := some T } :=
  { h with tier := fun _ hU => Option.some.inj hU ▸ hT }

/-! ### Issue, completion and error -/

theorem Invariant.complete {s : State} (h : Invariant s) {e : ErrCode}
    (hnamed : e ≠ .shapeMismatch ∧ e ≠ .invalidRange) : Invariant (complete e s) :=
  h.withStatus (fun hb => by cases hb) (fun _ hw => by cases hw) hnamed

theorem Invariant.raiseAccessFault {s : State} (h : Invariant s) (a : Nat) : Invariant (raiseAccessFault a s) := by
  have hset : Invariant { s with erraddr := BitVec.ofNat 32 a } := h.unwritten
  exact hset.complete (by decide)

theorem Invariant.completeAtTier {s : State} (h : Invariant s) {T : Tier} (hT : implemented s.params T = true) :
    Invariant (completeAtTier T s) :=
  (h.withTier hT).complete (by decide)

theorem Invariant.acceptCommand {s : State} (h : Invariant s) (w : Word) : Invariant (acceptCommand w s) := by
  rcases acceptCommand_cases w s with ⟨i, hd, e⟩ | ⟨r, -, e⟩ <;> rw [e]
  · exact h.withStatus (fun _ => ⟨rfl, rfl⟩) (fun c hc => ⟨i, Option.some.inj hc ▸ hd⟩) (by decide)
  · exact h.withStatus (fun hb => by cases hb) (fun _ hw => by cases hw) (by decide)

/-! ### The apply loop (44_stream R227) -/

/-- A cache that is true holds a whole block (R45). -/
theorem CacheTrue.length {s : State} (h : CacheTrue s) : s.blkbuf.length = blockSize := by
  obtain ⟨p, T, -, -, hb⟩ := h
  rw [hb, block_length]

/-- The index of a block of the stream is below 2^52 (R220). -/
theorem blockIndex_lt {q : Nat} (hq : q < 2 ^ 64) : (BitVec.ofNat 64 (q / blockSize)).toNat < 2 ^ 52 := by
  have hlt : q / blockSize < 2 ^ 52 := by unfold blockSize; omega
  rw [BitVec.toNat_ofNat, Nat.mod_eq_of_lt (by omega)]
  exact hlt

/-- The apply loop keeps the invariant: with a byte to go it leaves a true cache at an index of the stream, and with
none it does nothing (R226, R227). -/
theorem Invariant.applyLoop {s : State} (h : Invariant s) (p : IntPrim) {T : Tier} {n a pos : Nat}
    (hT : implemented s.params T = true) (ha : a + n ≤ 2 ^ 32) (hpos : pos + n ≤ 2 ^ 64) :
    Invariant (applyLoop p T n n a pos s) := by
  obtain rfl | hn := Nat.eq_zero_or_pos n
  · rw [applyLoop_nothing]; exact h
  obtain ⟨hmem, hcache, -, hlast⟩ := applyLoop_spec (p := p) (pos := pos) le_rfl h.memory h.cache hT ha
  obtain ⟨hvalid, -, hidx⟩ := hlast hn
  exact {
    memory := hmem
    buffer := (hcache hvalid).length
    cache := hcache
    index := by rw [hidx]; exact blockIndex_lt (by omega)
    issued := by rw [applyLoop_frame]; exact h.issued
    legal := by rw [applyLoop_frame]; exact h.legal
    named := by rw [applyLoop_frame]; exact h.named
    tier := by rw [applyLoop_frame]; exact h.tier }

/-! ### The commands -/

theorem Invariant.ksgen {s : State} (h : Invariant s) (p : IntPrim) (t : TierReq) : Invariant (ksgen p t s) := by
  rcases ksgen_cases p t s with ⟨-, e⟩ | ⟨T, hT, e⟩ <;> rw [e]
  · exact h.complete (by decide)
  · exact Invariant.completeAtTier h.unwritten (implemented_of_resolve hT)

theorem Invariant.stepInt {s : State} (h : Invariant s) (p : IntPrim) (t : TierReq) : Invariant (stepInt p t s) := by
  rcases stepInt_cases p t s with ⟨-, e⟩ | ⟨T, hT, e⟩ <;> rw [e]
  · exact h.complete (by decide)
  · exact Invariant.completeAtTier h.unwritten (implemented_of_resolve hT)

theorem Invariant.stepFloat {s : State} (h : Invariant s) (p : FloatPrim) (t : TierReq) :
    Invariant (stepFloat p t s) := by
  rcases stepFloat_cases p t s with ⟨-, e⟩ | ⟨T, hT, e⟩ <;> rw [e]
  · exact h.complete (by decide)
  · exact Invariant.completeAtTier h.unwritten (implemented_of_resolve hT)

theorem Invariant.derive {s : State} (h : Invariant s) (p : IntPrim) (t : TierReq) : Invariant (derive p t s) := by
  rcases derive_cases p t s with ⟨-, e⟩ | ⟨-, -, e⟩ | ⟨T, -, hT, -, e⟩ <;> rw [e]
  · exact h.complete (by decide)
  · exact h.complete (by decide)
  · exact Invariant.completeAtTier h.unwritten (implemented_of_resolve hT)

theorem Invariant.process {s : State} (h : Invariant s) (p : IntPrim) (t : TierReq) : Invariant (process p t s) := by
  rcases process_cases p t s with ⟨-, e⟩ | ⟨-, -, e⟩ | ⟨T, a, -, -, -, -, -, e⟩ | ⟨T, -, hT, -, hbuf, -, e⟩ <;> rw [e]
  · exact h.complete (by decide)
  · exact h.complete (by decide)
  · exact h.raiseAccessFault a
  · have hmem := wf_xorBytes (ks := keystream p T s.key s.iv s.ivlen.toNat s.len.toNat) h.memory
      (by rw [keystream_length]; exact hbuf)
    exact (h.withMem hmem).completeAtTier (implemented_of_resolve hT)

theorem Invariant.sapply {s : State} (h : Invariant s) (p : IntPrim) (t : TierReq) : Invariant (sapply p t s) := by
  rcases sapply_cases p t s with ⟨-, e⟩ | ⟨-, -, e⟩ | ⟨T, a, -, -, -, -, -, -, e⟩ | ⟨T, -, hT, -, hbuf, hstream, -, e⟩ <;>
    rw [e]
  · exact h.complete (by decide)
  · exact h.complete (by decide)
  · exact h.raiseAccessFault a
  · have himpl := implemented_of_resolve hT
    have hloop := h.applyLoop p himpl hbuf hstream
    exact Invariant.completeAtTier hloop.unwritten (by simpa using himpl)

/-- Every command keeps the invariant. -/
theorem Invariant.exec {i : Instr} {s t : State} (h : Invariant s) (ht : exec i s = .next t) : Invariant t := by
  rcases exec_cases ht with ⟨rfl, rfl⟩ | ⟨rfl, rfl⟩ | ⟨rfl, rfl⟩ | ⟨rfl, rfl⟩ | ⟨r, p, rfl, rfl⟩ | ⟨r, p, rfl, rfl⟩ |
    ⟨r, p, rfl, rfl⟩ | ⟨r, p, rfl, rfl⟩ | ⟨r, p, rfl, rfl⟩ | ⟨r, p, rfl, rfl⟩
  · exact h.complete (by decide)
  · exact Invariant.complete h.unwritten (by decide)
  · exact Invariant.complete h.unwritten (by decide)
  · exact (h.withoutBlock s.key s.iv).complete (by decide)
  · exact h.ksgen p r
  · exact h.stepInt p r
  · exact h.stepFloat p r
  · exact h.derive p r
  · exact h.process p r
  · exact h.sapply p r

/-- The engine's turn keeps the invariant. -/
theorem Invariant.engineTurn {s t : State} (h : Invariant s) (ht : engineTurn s = .next t) : Invariant t := by
  rcases engineTurn_cases s with ⟨-, e⟩ | ⟨w, i, -, -, e⟩ | ⟨w, r, -, -, e⟩ <;> rw [e] at ht
  · cases ht; exact h
  · exact h.exec ht
  · cases ht; exact h.complete (by decide)

/-! ### The host, the other agents and reset -/

/-- A write to STATUS clears DONE or leaves it, so a command in progress still has DONE = 0 (R25, R26). -/
theorem Invariant.writeStatus {s : State} (h : Invariant s) (v : Word) : Invariant (writeStatus v s) := by
  have hign : Invariant { s with ign := s.ign && !v.getLsbD 2 } := h.unwritten
  refine hign.withStatus (w := s.inProgress) (fun hb => ?_) h.legal h.named
  obtain ⟨hdone, herr⟩ := h.issued hb
  exact ⟨by simp [hdone], herr⟩

/-- A register write leaves every group alone, or is one to CMD or STATUS, or invalidates the block (R48). -/
theorem Invariant.writeReg {s : State} (h : Invariant s) (r : Reg) (v : Word) : Invariant (writeReg r v s) := by
  cases r with
  | cmd => exact h.acceptCommand v
  | status => exact h.writeStatus v
  | keylen => exact Invariant.unwritten (h.withoutBlock s.key s.iv)
  | ivlen => exact Invariant.unwritten (h.withoutBlock s.key s.iv)
  | key j => exact h.withoutBlock (s.key.setIfInBounds j v) s.iv
  | iv j => exact h.withoutBlock s.key (s.iv.setIfInBounds j v)
  | _ => exact h.unwritten

theorem Invariant.writeRegister {s : State} (h : Invariant s) (r : Reg) (v : Word) :
    Invariant (writeRegister r v s) := by
  unfold Machine.writeRegister
  split
  · exact h.unwritten
  · exact h.writeReg r v

theorem Invariant.memStore {s : State} (h : Invariant s) (a : Word) (b : Byte) : Invariant (memStore a b s) :=
  Invariant.unwritten (h.withMem (wf_writeByte h.memory a.isLt _))

/-- Reset leaves data memory in canonical form: the bytes it frees are below 2^32 (R281, R282). -/
theorem wf_memAfterReset {s : State} (h : Memory.wf s.mem = true) : Memory.wf (memAfterReset s) = true := by
  have haddr : s.addr.toNat < 2 ^ 32 := s.addr.isLt
  unfold memAfterReset
  split
  · split
    · exact wf_freeBytes h _ (by omega)
    · exact h
  · exact h

theorem Invariant.assertReset {s : State} (h : Invariant s) : Invariant (assertReset s) where
  memory := wf_memAfterReset h.memory
  buffer := reset_blkbuf_length
  cache := fun hv => by cases hv
  index := by rw [assertReset_blkidx, reset_blkidx]; decide
  issued := fun hb => by cases hb
  legal := fun _ hw => by cases hw
  named := by rw [assertReset_err, reset_err]; decide
  tier := fun _ hu => by cases hu

/-- Settles O58: by what the step is, an event taken from the agenda or the engine's turn, each of which keeps the
invariant. -/
theorem stepKeepsTheInvariant : Obligations.StepKeepsTheInvariant := by
  intro s t h ht
  have hpop (es : List Event) : Invariant { s with agenda := es } := h.unwritten
  rcases step_cases ht with ⟨-, he⟩ | ⟨es, -, he⟩ | ⟨off, es, -, -, rfl⟩ | ⟨off, v, es, -, -, rfl⟩ | ⟨a, es, -, rfl⟩ |
    ⟨a, b, es, -, rfl⟩ | ⟨es, -, rfl⟩
  · exact h.engineTurn he
  · exact (hpop es).engineTurn he
  · exact (hpop es).unwritten
  · exact (hpop es).writeRegister _ v
  · exact (hpop es).unwritten
  · exact (hpop es).memStore a b
  · exact (hpop es).assertReset

end Sys2Proof.Machine
end

section
/-! The laws of the register window (10_state R20 .. R49): which register stands at each offset, what a read returns
after a write to the same and to another register, the STATUS word, and the step of a host access. -/

namespace Sys2Proof.Machine

/-! ### The register at an offset (R20) -/

/-- The offset of a register in R20's table; the reserved offsets have no register and are put past the window. -/
def regOffset : Reg → Nat
  | .id => 0x000
  | .cap => 0x004
  | .ctrl => 0x008
  | .status => 0x00C
  | .cmd => 0x010
  | .addr => 0x014
  | .len => 0x018
  | .cnt => 0x01C
  | .keylen => 0x020
  | .ivlen => 0x024
  | .din => 0x028
  | .dout => 0x02C
  | .sposLo => 0x030
  | .sposHi => 0x034
  | .blkidxLo => 0x038
  | .blkidxHi => 0x03C
  | .erraddr => 0x040
  | .blktag => 0x044
  | .key j => 0x060 + 4 * j
  | .iv j => 0x080 + 4 * j
  | .div j => 0x090 + 4 * j
  | .v0 k => 0x100 + 4 * k
  | .v1 k => 0x140 + 4 * k
  | .v2 k => 0x180 + 4 * k
  | .ks k => 0x1C0 + 4 * k
  | .reserved => 0x1000

/-- The index of a key, IV or lane register is inside its file. -/
def regIndexOk : Reg → Bool
  | .key j => j < 8
  | .iv j => j < 4
  | .div j => j < 4
  | .v0 k => k < 16
  | .v1 k => k < 16
  | .v2 k => k < 16
  | .ks k => k < 16
  | _ => true

/-- The registers a write to which invalidates the block cache (R48). -/
def keyOrIvReg : Reg → Bool
  | .keylen => true
  | .ivlen => true
  | .key _ => true
  | .iv _ => true
  | _ => false

/-- Above the single registers `regAt` goes by ranges only. -/
theorem regAt_high {off : BitVec 12} (h : 0x048 ≤ off.toNat) :
    regAt off =
      if off.toNat < 0x060 then .reserved
      else if off.toNat < 0x080 then .key ((off.toNat - 0x060) / 4)
      else if off.toNat < 0x090 then .iv ((off.toNat - 0x080) / 4)
      else if off.toNat < 0x0A0 then .div ((off.toNat - 0x090) / 4)
      else if off.toNat < 0x100 then .reserved
      else if off.toNat < 0x140 then .v0 ((off.toNat - 0x100) / 4)
      else if off.toNat < 0x180 then .v1 ((off.toNat - 0x140) / 4)
      else if off.toNat < 0x1C0 then .v2 ((off.toNat - 0x180) / 4)
      else if off.toNat < 0x200 then .ks ((off.toNat - 0x1C0) / 4)
      else .reserved :=
  if_neg (Nat.not_lt.mpr h)

theorem regAt_key {off : BitVec 12} (h : 0x060 ≤ off.toNat) (h' : off.toNat < 0x080) :
    regAt off = .key ((off.toNat - 0x060) / 4) := by
  rw [regAt_high (by omega), if_neg (by omega), if_pos h']

theorem regAt_iv {off : BitVec 12} (h : 0x080 ≤ off.toNat) (h' : off.toNat < 0x090) :
    regAt off = .iv ((off.toNat - 0x080) / 4) := by
  rw [regAt_high (by omega), if_neg (by omega), if_neg (by omega), if_pos h']

theorem regAt_div {off : BitVec 12} (h : 0x090 ≤ off.toNat) (h' : off.toNat < 0x0A0) :
    regAt off = .div ((off.toNat - 0x090) / 4) := by
  rw [regAt_high (by omega), if_neg (by omega), if_neg (by omega), if_neg (by omega), if_pos h']

/-- From the lane registers on `regAt` has the four vectors and nothing else. -/
theorem regAt_lanes {off : BitVec 12} (h : 0x100 ≤ off.toNat) :
    regAt off =
      if off.toNat < 0x140 then .v0 ((off.toNat - 0x100) / 4)
      else if off.toNat < 0x180 then .v1 ((off.toNat - 0x140) / 4)
      else if off.toNat < 0x1C0 then .v2 ((off.toNat - 0x180) / 4)
      else if off.toNat < 0x200 then .ks ((off.toNat - 0x1C0) / 4)
      else .reserved := by
  rw [regAt_high (by omega), if_neg (by omega), if_neg (by omega), if_neg (by omega), if_neg (by omega),
    if_neg (by omega)]

theorem regAt_v0 {off : BitVec 12} (h : 0x100 ≤ off.toNat) (h' : off.toNat < 0x140) :
    regAt off = .v0 ((off.toNat - 0x100) / 4) := by
  rw [regAt_lanes h, if_pos h']

theorem regAt_v1 {off : BitVec 12} (h : 0x140 ≤ off.toNat) (h' : off.toNat < 0x180) :
    regAt off = .v1 ((off.toNat - 0x140) / 4) := by
  rw [regAt_lanes (by omega), if_neg (by omega), if_pos h']

theorem regAt_v2 {off : BitVec 12} (h : 0x180 ≤ off.toNat) (h' : off.toNat < 0x1C0) :
    regAt off = .v2 ((off.toNat - 0x180) / 4) := by
  rw [regAt_lanes (by omega), if_neg (by omega), if_neg (by omega), if_pos h']

theorem regAt_ks {off : BitVec 12} (h : 0x1C0 ≤ off.toNat) (h' : off.toNat < 0x200) :
    regAt off = .ks ((off.toNat - 0x1C0) / 4) := by
  rw [regAt_lanes (by omega), if_neg (by omega), if_neg (by omega), if_neg (by omega), if_pos h']

theorem regAt_reserved {off : BitVec 12} (h : (0x048 ≤ off.toNat ∧ off.toNat < 0x060) ∨
    (0x0A0 ≤ off.toNat ∧ off.toNat < 0x100) ∨ 0x200 ≤ off.toNat) : regAt off = .reserved := by
  obtain ⟨h1, h2⟩ | ⟨h1, h2⟩ | h1 := h
  · rw [regAt_high h1, if_pos h2]
  · rw [regAt_high (by omega), if_neg (by omega), if_neg (by omega), if_neg (by omega), if_neg (by omega), if_pos h2]
  · rw [regAt_lanes (by omega), if_neg (by omega), if_neg (by omega), if_neg (by omega), if_neg (by omega)]

theorem keyOrIvOffset_high {off : BitVec 12} (h : 0x048 ≤ off.toNat) :
    keyOrIvOffset off = decide (0x060 ≤ off.toNat ∧ off.toNat < 0x090) := by
  have h1 : (off == 0x020) = false := beq_eq_false_iff_ne.mpr fun e => by subst e; exact absurd h (by decide)
  have h2 : (off == 0x024) = false := beq_eq_false_iff_ne.mpr fun e => by subst e; exact absurd h (by decide)
  rw [keyOrIvOffset, h1, h2, Bool.decide_and]
  rfl

/-- All that is said here of the register at an offset. -/
structure StandsAt (off : BitVec 12) (r : Reg) : Prop where
  offset : r = .reserved ∨ regOffset r = off.toNat
  index : regIndexOk r = true
  keyOrIv : keyOrIvOffset off = keyOrIvReg r

theorem standsAt_low : ∀ k < 18, StandsAt (BitVec.ofNat 12 (4 * k)) (regAt (BitVec.ofNat 12 (4 * k))) := by
  have table : ∀ k < 18, regOffset (regAt (BitVec.ofNat 12 (4 * k))) = (BitVec.ofNat 12 (4 * k)).toNat ∧
      regIndexOk (regAt (BitVec.ofNat 12 (4 * k))) = true ∧
      keyOrIvOffset (BitVec.ofNat 12 (4 * k)) = keyOrIvReg (regAt (BitVec.ofNat 12 (4 * k))) := by decide
  intro k hk
  obtain ⟨hoff, hidx, hkey⟩ := table k hk
  exact ⟨.inr hoff, hidx, hkey⟩

theorem standsAt_high {off : BitVec 12} (ha : off.toNat % 4 = 0) (h : 0x048 ≤ off.toNat) :
    StandsAt off (regAt off) := by
  have hkey := keyOrIvOffset_high h
  obtain hr | hr | hr | hr | hr | hr | hr | hr :
      ((0x048 ≤ off.toNat ∧ off.toNat < 0x060) ∨ (0x0A0 ≤ off.toNat ∧ off.toNat < 0x100) ∨ 0x200 ≤ off.toNat) ∨
      (0x060 ≤ off.toNat ∧ off.toNat < 0x080) ∨ (0x080 ≤ off.toNat ∧ off.toNat < 0x090) ∨
      (0x090 ≤ off.toNat ∧ off.toNat < 0x0A0) ∨ (0x100 ≤ off.toNat ∧ off.toNat < 0x140) ∨
      (0x140 ≤ off.toNat ∧ off.toNat < 0x180) ∨ (0x180 ≤ off.toNat ∧ off.toNat < 0x1C0) ∨
      (0x1C0 ≤ off.toNat ∧ off.toNat < 0x200) := by omega
  · rw [regAt_reserved hr]
    exact ⟨.inl rfl, rfl, hkey.trans (decide_eq_false (by omega))⟩
  · rw [regAt_key hr.1 hr.2]
    exact ⟨.inr (by simp only [regOffset]; omega), decide_eq_true (by omega), hkey.trans (decide_eq_true (by omega))⟩
  · rw [regAt_iv hr.1 hr.2]
    exact ⟨.inr (by simp only [regOffset]; omega), decide_eq_true (by omega), hkey.trans (decide_eq_true (by omega))⟩
  · rw [regAt_div hr.1 hr.2]
    exact ⟨.inr (by simp only [regOffset]; omega), decide_eq_true (by omega), hkey.trans (decide_eq_false (by omega))⟩
  · rw [regAt_v0 hr.1 hr.2]
    exact ⟨.inr (by simp only [regOffset]; omega), decide_eq_true (by omega), hkey.trans (decide_eq_false (by omega))⟩
  · rw [regAt_v1 hr.1 hr.2]
    exact ⟨.inr (by simp only [regOffset]; omega), decide_eq_true (by omega), hkey.trans (decide_eq_false (by omega))⟩
  · rw [regAt_v2 hr.1 hr.2]
    exact ⟨.inr (by simp only [regOffset]; omega), decide_eq_true (by omega), hkey.trans (decide_eq_false (by omega))⟩
  · rw [regAt_ks hr.1 hr.2]
    exact ⟨.inr (by simp only [regOffset]; omega), decide_eq_true (by omega), hkey.trans (decide_eq_false (by omega))⟩

theorem standsAt_regAt {off : BitVec 12} (ha : off.toNat % 4 = 0) : StandsAt off (regAt off) := by
  by_cases h : off.toNat < 0x048
  · have hk : off = BitVec.ofNat 12 (4 * (off.toNat / 4)) := by
      apply BitVec.eq_of_toNat_eq
      rw [BitVec.toNat_ofNat]
      omega
    rw [hk]
    exact standsAt_low _ (by omega)
  · exact standsAt_high ha (by omega)

/-- A register other than a reserved one stands at one offset. -/
theorem regAt_inj {off off' : BitVec 12} (ha : off.toNat % 4 = 0) (ha' : off'.toNat % 4 = 0)
    (h : regAt off' = regAt off) (hr : regAt off ≠ .reserved) : off' = off := by
  have h1 := (standsAt_regAt ha).offset.resolve_left hr
  have h2 := (standsAt_regAt ha').offset.resolve_left (h ▸ hr)
  exact BitVec.eq_of_toNat_eq (by rw [← h1, ← h2, h])

theorem regAt_eq_status_iff {off : BitVec 12} (ha : off.toNat % 4 = 0) : regAt off = .status ↔ off = 0x00C :=
  ⟨fun h => regAt_inj rfl ha h nofun, fun h => h ▸ rfl⟩

theorem regAt_eq_cmd_iff {off : BitVec 12} (ha : off.toNat % 4 = 0) : regAt off = .cmd ↔ off = 0x010 :=
  ⟨fun h => regAt_inj rfl ha h nofun, fun h => h ▸ rfl⟩

/-- The words of the key and IV files and of the lane registers, each at its offset (R20). -/
theorem regAt_files :
    (∀ j < 8, regAt (BitVec.ofNat 12 (0x060 + 4 * j)) = .key j) ∧
    (∀ j < 4, regAt (BitVec.ofNat 12 (0x080 + 4 * j)) = .iv j ∧ regAt (BitVec.ofNat 12 (0x090 + 4 * j)) = .div j) ∧
    ∀ k < 16, regAt (BitVec.ofNat 12 (0x100 + 4 * k)) = .v0 k ∧ regAt (BitVec.ofNat 12 (0x140 + 4 * k)) = .v1 k ∧
      regAt (BitVec.ofNat 12 (0x180 + 4 * k)) = .v2 k ∧ regAt (BitVec.ofNat 12 (0x1C0 + 4 * k)) = .ks k := by
  decide

/-! ### Fields of a word -/

theorem toNat_append_eq {m n : Nat} (x : BitVec m) (y : BitVec n) : (x ++ y).toNat = x.toNat * 2 ^ n + y.toNat := by
  rw [BitVec.toNat_append, ← Nat.shiftLeft_add_eq_or_of_lt y.isLt, Nat.shiftLeft_eq]

/-- Each field of STATUS stands at its place (R25). -/
theorem packStatus_toNat (blkValid : Bool) (tier : BitVec 2) (err : BitVec 4) (ign done busy : Bool) :
    (packStatus blkValid tier err ign done busy).toNat =
      busy.toNat + 2 * done.toNat + 4 * ign.toNat + 16 * err.toNat + 256 * tier.toNat + 65536 * blkValid.toNat := by
  simp only [packStatus, toNat_append_eq, BitVec.toNat_ofBool, BitVec.toNat_ofNat]
  omega

/-- CTRL holds IE alone (R24). -/
theorem readReg_ctrl_toNat (s : State) : (readReg .ctrl s).toNat = s.ie.toNat := by
  simp only [readReg, toNat_append_eq, BitVec.toNat_ofBool, BitVec.toNat_ofNat]
  omega

/-- CAP holds the tier options of the part (R23). -/
theorem readReg_cap_toNat (s : State) :
    (readReg .cap s).toNat = 1 + 2 * s.params.hasW256.toNat + 4 * s.params.hasW512.toNat := by
  simp only [readReg, toNat_append_eq, BitVec.toNat_ofBool, BitVec.toNat_ofNat]
  omega

/-- Clearing bit 16 of a STATUS word clears BLK_VALID and keeps every other field (R25, R48). -/
theorem packStatus_and_mask (blkValid : Bool) (tier : BitVec 2) (err : BitVec 4) (ign done busy : Bool) :
    packStatus blkValid tier err ign done busy &&& 0xFFFEFFFF = packStatus false tier err ign done busy := by
  have mask : (0xFFFEFFFF : Word) = BitVec.allOnes 15 ++ 0#1 ++ BitVec.allOnes 6 ++ BitVec.allOnes 2 ++ BitVec.allOnes 4 ++
      BitVec.allOnes 1 ++ BitVec.allOnes 1 ++ BitVec.allOnes 1 ++ BitVec.allOnes 1 := by decide
  have fields : (0#15 ++ BitVec.ofBool blkValid ++ 0#6 ++ tier ++ err ++ 0#1 ++ BitVec.ofBool ign ++ BitVec.ofBool done ++
      BitVec.ofBool busy) &&& (BitVec.allOnes 15 ++ 0#1 ++ BitVec.allOnes 6 ++ BitVec.allOnes 2 ++ BitVec.allOnes 4 ++
      BitVec.allOnes 1 ++ BitVec.allOnes 1 ++ BitVec.allOnes 1 ++ BitVec.allOnes 1) =
      0#15 ++ 0#1 ++ 0#6 ++ tier ++ err ++ 0#1 ++ BitVec.ofBool ign ++ BitVec.ofBool done ++ BitVec.ofBool busy := by
    simp only [BitVec.and_append, BitVec.and_allOnes, BitVec.and_zero]
  rw [mask]
  exact fields

/-- A register whose bits are all writable takes the value written. -/
theorem blend_all (v x : Word) : (v &&& 0xFFFFFFFF) ||| (x &&& ~~~0xFFFFFFFF) = v := by
  rw [show (0xFFFFFFFF : Word) = BitVec.allOnes 32 from rfl]
  simp only [BitVec.not_allOnes, BitVec.and_allOnes, BitVec.and_zero, BitVec.or_zero]

/-- A register with no writable bit keeps its value. -/
theorem blend_none (v x : Word) : (v &&& 0) ||| (x &&& ~~~0) = x := by
  rw [show (~~~0 : Word) = BitVec.allOnes 32 from rfl]
  simp only [BitVec.ofNat_eq_ofNat, BitVec.and_allOnes, BitVec.and_zero, BitVec.zero_or]

/-- A register of n bits takes the low n bits of the value written; its reserved bits stay 0. -/
theorem blend_low {n : Nat} (v : Word) (x : BitVec n) :
    (v &&& (BitVec.allOnes n).setWidth 32) ||| (x.setWidth 32 &&& ~~~(BitVec.allOnes n).setWidth 32) =
      (v.extractLsb' 0 n).setWidth 32 := by
  ext i hi
  by_cases hn : i < n
  · simp [hn, hi]
  · simp [hn, BitVec.getLsbD_of_ge x i (by omega)]

/-- A bit as a register of one bit. -/
theorem zero_append_bit (x : BitVec 1) : 0#31 ++ x = x.setWidth 32 :=
  (BitVec.setWidth_eq_append (by decide)).symm

theorem ofBool_getLsbD_zero (v : Word) : BitVec.ofBool (v.getLsbD 0) = v.extractLsb' 0 1 := by
  ext i hi
  obtain rfl : i = 0 := by omega
  simp

/-- What writing a bit of 1 clears (R25), by the number of the word written. -/
theorem and_not_getLsbD (b : Bool) (v : Word) (i : Nat) :
    (b && !v.getLsbD i) = if v.toNat / 2 ^ i % 2 = 1 then false else b := by
  rw [← BitVec.testBit_toNat, Nat.testBit_eq_decide_div_mod_eq]
  by_cases h : v.toNat / 2 ^ i % 2 = 1 <;> simp [h]

@[simp] theorem lo32_append (h l : Word) : lo32 (h ++ l) = l :=
  BitVec.extractLsb'_append_eq_right

@[simp] theorem hi32_append (h l : Word) : hi32 (h ++ l) = h :=
  BitVec.extractLsb'_append_eq_left

theorem lo32_toNat (x : DWord) : (lo32 x).toNat = x.toNat % 2 ^ 32 := by
  simp [lo32]

theorem hi32_toNat (x : DWord) : (hi32 x).toNat = x.toNat / 2 ^ 32 := by
  rw [hi32, BitVec.extractLsb'_toNat, Nat.shiftRight_eq_div_pow]
  omega

/-- A write to one element of a register file leaves the reading of every other one. -/
theorem word_setIfInBounds_ne {n : Nat} (v : Vector Word n) {j k : Nat} (x : Word) (h : k ≠ j) :
    word (v.setIfInBounds j x) k = word v k := by
  by_cases hk : k < n
  · rw [word_setIfInBounds v j k x hk, if_neg h]
  · rw [word_past_end _ (by omega), word_past_end _ (by omega)]

theorem word_setIfInBounds_self {n : Nat} (v : Vector Word n) {j : Nat} (x : Word) (h : j < n) :
    word (v.setIfInBounds j x) j = x := by
  rw [word_setIfInBounds v j j x h, if_pos rfl]

theorem getElem?_eq_some_word {n : Nat} (v : Vector Word n) {k : Nat} (hk : k < n) : v[k]? = some (word v k) := by
  rw [word_eq_getElem v hk, Vector.getElem?_eq_getElem hk]

/-! ### A read after a write -/

/-- The register written: its writable bits take the value, the others stay (R20, R21). -/
theorem readReg_writeReg_self {r : Reg} (hidx : regIndexOk r = true) (hstatus : r ≠ .status) (hcmd : r ≠ .cmd) (v : Word)
    (s : State) :
    readReg r (writeReg r v s) = (v &&& writableBits r) ||| (readReg r s &&& ~~~writableBits r) := by
  cases r with
  | status => exact absurd rfl hstatus
  | cmd => exact absurd rfl hcmd
  | ctrl =>
    simp only [readReg, writeReg, writableBits, zero_append_bit, ofBool_getLsbD_zero]
    exact (blend_low v (BitVec.ofBool s.ie)).symm
  | keylen => exact (blend_low v s.keylen).symm
  | ivlen => exact (blend_low v s.ivlen).symm
  | sposLo => simp only [readReg, writeReg, writableBits, blend_all, lo32_append]
  | sposHi => simp only [readReg, writeReg, writableBits, blend_all, hi32_append]
  | key j => exact (word_setIfInBounds_self s.key v (of_decide_eq_true hidx)).trans (blend_all v _).symm
  | iv j => exact (word_setIfInBounds_self s.iv v (of_decide_eq_true hidx)).trans (blend_all v _).symm
  | v0 k => exact (word_setIfInBounds_self s.v0 v (of_decide_eq_true hidx)).trans (blend_all v _).symm
  | v1 k => exact (word_setIfInBounds_self s.v1 v (of_decide_eq_true hidx)).trans (blend_all v _).symm
  | v2 k => exact (word_setIfInBounds_self s.v2 v (of_decide_eq_true hidx)).trans (blend_all v _).symm
  | addr | len | cnt | din => exact (blend_all v _).symm
  | id | cap | dout | blkidxLo | blkidxHi | erraddr | blktag | div _ | ks _ | reserved => exact (blend_none v _).symm

/-- No other register but STATUS reads otherwise than before (R20, R49). -/
theorem readReg_writeReg_ne {r r' : Reg} (hne : r' ≠ r) (hstatus : r ≠ .status) (hcmd : r ≠ .cmd)
    (hstatus' : r' ≠ .status) (v : Word) (s : State) : readReg r' (writeReg r v s) = readReg r' s := by
  cases r with
  | status => exact absurd rfl hstatus
  | cmd => exact absurd rfl hcmd
  | ctrl => cases r' with
    | ctrl => exact absurd rfl hne
    | _ => rfl
  | addr => cases r' with
    | addr => exact absurd rfl hne
    | _ => rfl
  | len => cases r' with
    | len => exact absurd rfl hne
    | _ => rfl
  | cnt => cases r' with
    | cnt => exact absurd rfl hne
    | _ => rfl
  | keylen => cases r' with
    | keylen => exact absurd rfl hne
    | status => exact absurd rfl hstatus'
    | _ => rfl
  | ivlen => cases r' with
    | ivlen => exact absurd rfl hne
    | status => exact absurd rfl hstatus'
    | _ => rfl
  | din => cases r' with
    | din => exact absurd rfl hne
    | _ => rfl
  | sposLo => cases r' with
    | sposLo => exact absurd rfl hne
    | sposHi => simp only [readReg, writeReg, hi32_append]
    | _ => rfl
  | sposHi => cases r' with
    | sposHi => exact absurd rfl hne
    | sposLo => simp only [readReg, writeReg, lo32_append]
    | _ => rfl
  | key j => cases r' with
    | key k => exact word_setIfInBounds_ne s.key v fun h => hne (congrArg Reg.key h)
    | status => exact absurd rfl hstatus'
    | _ => rfl
  | iv j => cases r' with
    | iv k => exact word_setIfInBounds_ne s.iv v fun h => hne (congrArg Reg.iv h)
    | status => exact absurd rfl hstatus'
    | _ => rfl
  | v0 j => cases r' with
    | v0 k => exact word_setIfInBounds_ne s.v0 v fun h => hne (congrArg Reg.v0 h)
    | _ => rfl
  | v1 j => cases r' with
    | v1 k => exact word_setIfInBounds_ne s.v1 v fun h => hne (congrArg Reg.v1 h)
    | _ => rfl
  | v2 j => cases r' with
    | v2 k => exact word_setIfInBounds_ne s.v2 v fun h => hne (congrArg Reg.v2 h)
    | _ => rfl
  | id | cap | dout | blkidxLo | blkidxHi | erraddr | blktag | div _ | ks _ | reserved => rfl

/-- A write clears BLK_VALID where it goes to a key or IV register, and nowhere else (R48). -/
theorem writeReg_blkValid (r : Reg) (v : Word) (s : State) :
    (writeReg r v s).blkValid = if keyOrIvReg r = true then false else s.blkValid := by
  cases r with
  | cmd => simp only [writeReg]; rw [acceptCommand_frame]; rfl
  | _ => rfl

/-- STATUS after a write to another register: BLK_VALID alone can fall (R48). -/
theorem readReg_status_writeReg {r : Reg} (hstatus : r ≠ .status) (hcmd : r ≠ .cmd) (v : Word) (s : State) :
    readReg .status (writeReg r v s) =
      if keyOrIvReg r = true then readReg .status s &&& 0xFFFEFFFF else readReg .status s := by
  cases r with
  | status => exact absurd rfl hstatus
  | cmd => exact absurd rfl hcmd
  | keylen | ivlen | key _ | iv _ => exact (packStatus_and_mask ..).symm
  | _ => rfl

/-- Only a write to CMD touches the command in progress (R26). -/
theorem writeReg_inProgress {r : Reg} (hcmd : r ≠ .cmd) (v : Word) (s : State) :
    (writeReg r v s).inProgress = s.inProgress := by
  cases r with
  | cmd => exact absurd rfl hcmd
  | _ => rfl

/-- Only a write to STATUS touches IGN, and it can only clear it (R25). -/
theorem writeReg_ign {r : Reg} (v : Word) {s : State} (h : s.ign = false) : (writeReg r v s).ign = false := by
  cases r with
  | cmd => simp only [writeReg]; rw [acceptCommand_frame]; exact h
  | status => simp [writeReg, h]
  | _ => exact h

/-! ### The step of a host access -/

theorem writeRegister_idle {s : State} (hb : busy s = false) (r : Reg) (v : Word) :
    writeRegister r v s = writeReg r v s := by
  simp [writeRegister, hb]

theorem writeRegister_status (v : Word) (s : State) : writeRegister .status v s = writeStatus v s := by
  simp [writeRegister, writeReg]

theorem readValue_idle {s : State} (hb : busy s = false) (free : Word) (r : Reg) : readValue free r s = readReg r s := by
  simp [readValue, hb]

theorem writeRegister_busy {s : State} (hb : busy s = true) {r : Reg} (hctrl : r ≠ .ctrl) (hstatus : r ≠ .status)
    (v : Word) : writeRegister r v s = { s with ign := true } := by
  simp [writeRegister, hb, hctrl, hstatus]

/-- CMD reads 0 at any time (R26). -/
theorem readValue_cmd (free : Word) (s : State) : readValue free .cmd s = 0 := by
  simp [readValue, resultReg, readReg]

theorem acceptCommand_illegal {w : Word} {e : Illegal} (s : State) (hd : decode w = .error e) :
    acceptCommand w s = { s with inProgress := none, done := true, err := .illegalCmd } := by
  simp [acceptCommand, hd, illegalCommand, raiseError, complete, issue]

theorem accessWellFormed_iff {off : BitVec 12} {width : Nat} :
    accessWellFormed off width = true ↔ width = 4 ∧ off.toNat % 4 = 0 := by
  simp [accessWellFormed]

theorem step_read {off : BitVec 12} (ha : off.toNat % 4 = 0) (s : State) (es : List Event) :
    step { s with agenda := .read off 4 :: es } = .next (readRegister (regAt off) { s with agenda := es }) :=
  if_pos (accessWellFormed_iff.mpr ⟨rfl, ha⟩)

theorem step_write {off : BitVec 12} (ha : off.toNat % 4 = 0) (v : Word) (s : State) (es : List Event) :
    step { s with agenda := .write off 4 v :: es } = .next (writeRegister (regAt off) v { s with agenda := es }) :=
  if_pos (accessWellFormed_iff.mpr ⟨rfl, ha⟩)

theorem step_write_idle {s : State} (hb : busy s = false) {off : BitVec 12} (ha : off.toNat % 4 = 0) (v : Word)
    (es : List Event) :
    step { s with agenda := .write off 4 v :: es } = .next (writeReg (regAt off) v { s with agenda := es }) := by
  rw [step_write ha, writeRegister_idle (by exact hb)]

end Sys2Proof.Machine
end

section
/-! Proofs of the statements about the state and the register window (10_state): which accesses are refused, what an idle
write and a command change, what the CMD write issues, and what a read returns. -/

namespace Sys2Proof.Machine

/-! ### Totality (60_exceptions R252, R253) -/

theorem exec_total (i : Instr) (s : State) : ∃ t, exec i s = .next t := by
  rcases instr_cases i with rfl | rfl | rfl | rfl | ⟨r, p, rfl⟩ | ⟨r, p, rfl⟩ | ⟨r, p, rfl⟩ | ⟨r, p, rfl⟩ | ⟨r, p, rfl⟩ |
    ⟨r, p, rfl⟩
  · exact ⟨_, exec_nop s⟩
  · exact ⟨_, exec_mix s⟩
  · exact ⟨_, exec_ivder s⟩
  · exact ⟨_, exec_sinval s⟩
  · exact ⟨_, exec_ksgenOf r p s⟩
  · exact ⟨_, exec_stepIntOf r p s⟩
  · exact ⟨_, exec_stepFloatOf r p s⟩
  · exact ⟨_, exec_deriveOf r p s⟩
  · exact ⟨_, exec_processOf r p s⟩
  · exact ⟨_, exec_sapplyOf r p s⟩

/-- No command writes IGN (R25). -/
theorem exec_ign {i : Instr} {s t : State} (h : exec i s = .next t) : t.ign = s.ign := by
  rcases exec_cases h with ⟨rfl, rfl⟩ | ⟨rfl, rfl⟩ | ⟨rfl, rfl⟩ | ⟨rfl, rfl⟩ | ⟨r, p, rfl, rfl⟩ | ⟨r, p, rfl, rfl⟩ |
    ⟨r, p, rfl, rfl⟩ | ⟨r, p, rfl, rfl⟩ | ⟨r, p, rfl, rfl⟩ | ⟨r, p, rfl, rfl⟩
  · rfl
  · rfl
  · rfl
  · rfl
  · rw [ksgen_frame]
  · rw [stepInt_frame]
  · rw [stepFloat_frame]
  · rw [derive_frame]
  · rw [process_frame]
  · rw [sapply_frame]

/-- The engine's turn goes on and leaves IGN alone. -/
theorem engineTurn_goesOn (s : State) : ∃ t, engineTurn s = .next t ∧ t.ign = s.ign := by
  rcases engineTurn_cases s with ⟨-, e⟩ | ⟨w, i, -, -, e⟩ | ⟨w, r, -, -, e⟩
  · exact ⟨s, e, rfl⟩
  · obtain ⟨t, ht⟩ := exec_total i s
    exact ⟨t, e.trans ht, exec_ign ht⟩
  · exact ⟨_, e, rfl⟩

/-- An event whose access, if it is one to the window, is an aligned 32-bit one goes on (R21, R253). -/
theorem applyEvent_total {e : Event} (s : State)
    (hread : ∀ off width, e = .read off width → accessWellFormed off width = true)
    (hwrite : ∀ off width v, e = .write off width v → accessWellFormed off width = true) :
    ∃ t, applyEvent e s = .next t := by
  cases e with
  | read off width => exact ⟨_, if_pos (hread off width rfl)⟩
  | write off width v => exact ⟨_, if_pos (hwrite off width v rfl)⟩
  | memLoad a => exact ⟨_, rfl⟩
  | memStore a b => exact ⟨_, rfl⟩
  | engine =>
    obtain ⟨t, ht, -⟩ := engineTurn_goesOn s
    exact ⟨t, ht⟩
  | reset => exact ⟨_, rfl⟩

/-- A register write that keeps duty 5 of R270 is not dropped, and then IGN does not rise. -/
theorem writeRegister_ign {r : Reg} {s : State} (v : Word) (hduty : busy s = false ∨ r = .ctrl ∨ r = .status)
    (h : s.ign = false) : (writeRegister r v s).ign = false := by
  have hkept : (busy s && !(r == .ctrl || r == .status)) = false := by
    obtain hb | rfl | rfl := hduty
    · rw [hb, Bool.false_and]
    · exact Bool.and_false _
    · exact Bool.and_false _
  rw [writeRegister, hkept]
  exact writeReg_ign v h

/-- An event that keeps the duties of R270 goes on and drops no write. -/
theorem applyEvent_of_dutyKept {e : Event} {s : State} (hduty : dutyKept e s = true) :
    ∃ t, applyEvent e s = .next t ∧ (s.ign = false → t.ign = false) := by
  cases e with
  | read off width =>
    simp only [dutyKept, Bool.and_eq_true] at hduty
    exact ⟨_, if_pos hduty.1, id⟩
  | write off width v =>
    simp only [dutyKept, Bool.and_eq_true, Bool.or_eq_true, Bool.not_eq_true', beq_iff_eq, or_assoc] at hduty
    obtain ⟨⟨hform, hkept⟩, -⟩ := hduty
    exact ⟨_, if_pos hform, writeRegister_ign v hkept⟩
  | memLoad a => exact ⟨_, rfl, id⟩
  | memStore a b => exact ⟨_, rfl, id⟩
  | engine =>
    obtain ⟨t, ht, hign⟩ := engineTurn_goesOn s
    exact ⟨t, ht, fun h => hign.trans h⟩
  | reset => exact ⟨_, rfl, fun _ => rfl⟩

/-- Settles O8: an event is refused only by the form of its access, and only a dropped write raises IGN. -/
theorem onlyMalformedAccessesAreRefused : Obligations.OnlyMalformedAccessesAreRefused := by
  refine ⟨fun s hread hwrite => ?_, fun s off width v es hbad => ?_, fun s e es hduty => ?_⟩
  · cases ha : s.agenda with
    | nil =>
      obtain ⟨t, ht, -⟩ := engineTurn_goesOn s
      exact ⟨t, (step_agenda_nil ha).trans ht⟩
    | cons e es =>
      obtain ⟨t, ht⟩ := applyEvent_total (e := e) { s with agenda := es }
        (fun off width he => accessWellFormed_iff.mpr (hread off width es (he ▸ ha)))
        (fun off width v he => accessWellFormed_iff.mpr (hwrite off width v es (he ▸ ha)))
      exact ⟨t, by rw [step, ha]; exact ht⟩
  · have hform : ¬ accessWellFormed off width = true := mt accessWellFormed_iff.mp hbad
    exact ⟨if_neg hform, if_neg hform⟩
  · have hpop : dutyKept e { s with agenda := es } = true := by cases e <;> exact hduty
    exact applyEvent_of_dutyKept hpop

/-! ### What an idle write changes (10_state R20, R48) -/

/-- Every offset after an idle write: the one written, STATUS, and the others. -/
theorem readReg_regAt_writeReg {off off' : BitVec 12} (ha : off.toNat % 4 = 0) (ha' : off'.toNat % 4 = 0)
    (hstatus : off ≠ 0x00C) (hcmd : off ≠ 0x010) (v : Word) (s : State) :
    readReg (regAt off') (writeReg (regAt off) v s) =
      if off' = off then (v &&& writableBits (regAt off)) ||| (readReg (regAt off) s &&& ~~~writableBits (regAt off))
      else if off' = 0x00C ∧ keyOrIvOffset off = true then readReg (regAt off') s &&& 0xFFFEFFFF
      else readReg (regAt off') s := by
  have hrs : regAt off ≠ .status := mt (regAt_eq_status_iff ha).mp hstatus
  have hrc : regAt off ≠ .cmd := mt (regAt_eq_cmd_iff ha).mp hcmd
  have hoff := standsAt_regAt ha
  by_cases hself : off' = off
  · rw [if_pos hself, hself]
    exact readReg_writeReg_self hoff.index hrs hrc v s
  rw [if_neg hself]
  by_cases hst : off' = 0x00C
  · rw [hst, show regAt 0x00C = .status from rfl, readReg_status_writeReg hrs hrc, hoff.keyOrIv]
    simp only [true_and]
  rw [if_neg fun h => hst h.1]
  by_cases hres : regAt off = .reserved
  · rw [hres]; rfl
  · exact readReg_writeReg_ne (fun h => hself (regAt_inj ha ha' h hres)) hrs hrc
      (mt (regAt_eq_status_iff ha').mp hst) v s

/-- Settles O14: the registers by `readReg_regAt_writeReg`, what is outside the window by `writeReg_frame`. -/
theorem writeChangesOneRegister : Obligations.WriteChangesOneRegister := by
  intro s off v es hb ha hstatus hcmd
  have hrc : regAt off ≠ .cmd := mt (regAt_eq_cmd_iff ha).mp hcmd
  refine ⟨_, step_write_idle hb ha v es, fun off' ha' => readReg_regAt_writeReg ha ha' hstatus hcmd v _, ?_⟩
  refine ⟨(writeReg_inProgress hrc v _).trans (inProgress_eq_none_of_not_busy hb), ?_⟩
  rw [writeReg_frame]
  exact ⟨rfl, rfl, rfl, rfl, rfl, rfl⟩

/-- Settles O15: BLK_VALID by `writeReg_blkValid`, the contents of the cache by `writeReg_frame`. -/
theorem keyAndIvWritesInvalidate : Obligations.KeyAndIvWritesInvalidate := by
  intro s off v es hb ha
  refine ⟨_, step_write_idle hb ha v es, ?_, ?_⟩
  · rw [writeReg_blkValid, (standsAt_regAt ha).keyOrIv]
  · rw [writeReg_frame]
    exact ⟨rfl, rfl, rfl⟩

/-! ### What a command changes (10_state section 9) -/

/-- Settles O25: by families of commands, each with its frame. -/
theorem commandWritesOnlyItsState : Obligations.CommandWritesOnlyItsState := by
  intro i s t h
  rcases exec_cases h with ⟨rfl, rfl⟩ | ⟨rfl, rfl⟩ | ⟨rfl, rfl⟩ | ⟨rfl, rfl⟩ | ⟨r, p, rfl, rfl⟩ | ⟨r, p, rfl, rfl⟩ |
    ⟨r, p, rfl, rfl⟩ | ⟨r, p, rfl, rfl⟩ | ⟨r, p, rfl, rfl⟩ | ⟨r, p, rfl, rfl⟩
  · simp
  · simp [show opField (encode .mix) = 1 from rfl]
  · simp [show opField (encode .ivder) = 6 from rfl]
  · simp [show opField (encode .sinval) = 8 from rfl]
  · rw [ksgen_frame]; simp
  · rw [stepInt_frame]; simp
  · rw [stepFloat_frame]; simp
  · rw [derive_frame]; simp
  · rw [process_frame]; simp
  · rw [sapply_frame]; simp

/-! ### The CMD register (10_state R26, 30_encoding R89) -/

/-- Settles O6: by `acceptCommand_cases` while idle, by the drop of R290 while busy. -/
theorem issueTakesTheCommandWord : Obligations.IssueTakesTheCommandWord := by
  intro s c es
  refine ⟨fun i hb hd => ⟨?_, ?_⟩, fun e hb hd => ?_, fun hb => ?_, ?_⟩
  · rw [step_write_idle hb rfl]
    exact congrArg Host.Outcome.next (acceptCommand_legal _ hd)
  · rw [step_agenda_engine rfl]
    exact engineTurn_legal rfl hd
  · rw [step_write_idle hb rfl]
    exact congrArg Host.Outcome.next (acceptCommand_illegal _ hd)
  · rw [step_write rfl, show regAt 0x010 = .cmd from rfl, writeRegister_busy (r := .cmd) (by exact hb) nofun nofun]
  · rw [step_read rfl]
    simp only [readRegister]
    rw [show regAt 0x010 = .cmd from rfl, readValue_cmd]

/-! ### Reads (10_state R20, R21, R25) -/

/-- Settles O19: the W1C bits by `and_not_getLsbD`, the fields of STATUS by `packStatus_toNat`. -/
theorem statusIsWriteOneToClear : Obligations.StatusIsWriteOneToClear := by
  intro s v es
  refine ⟨?_, ?_⟩
  · rw [step_write rfl, show regAt 0x00C = .status from rfl, writeRegister_status]
    simp only [writeStatus, and_not_getLsbD, pow_one, Nat.reducePow]
  · intro err tier
    have herr : (errCode s.err).toNat = err := by
      dsimp only [err]
      cases s.err <;> rfl
    have htier : (tierUsedCode s.tierUsed).toNat = tier := by
      dsimp only [tier]
      obtain - | T := s.tierUsed
      · rfl
      · cases T <;> rfl
    have hfield (n : Nat) (b : Bool) : n * b.toNat = if b = true then n else 0 := by cases b <;> simp
    calc (statusWord s).toNat
        = 1 * (busy s).toNat + 2 * s.done.toNat + 4 * s.ign.toNat + 16 * (errCode s.err).toNat +
            256 * (tierUsedCode s.tierUsed).toNat + 65536 * s.blkValid.toNat := by
          rw [statusWord, packStatus_toNat, Nat.one_mul]
      _ = _ := by simp only [hfield, herr, htier]

/-- Settles O18: the step of a read, and R20's table row by row. -/
theorem idleReadReturnsTheRegister : Obligations.IdleReadReturnsTheRegister := by
  refine ⟨fun s off es hb ha => ?_, fun s => ?_⟩
  · rw [step_read ha, readRegister, readValue_idle (by exact hb)]
    rfl
  intro reads
  obtain ⟨hkey, hiv, hlane⟩ := regAt_files
  have hkeys : ∀ j < 8, s.key[j]? = some (reads (0x060 + 4 * j)) := fun j hj => by
    rw [getElem?_eq_some_word _ hj]
    simp only [reads, hkey j hj, readReg]
  have hivs : ∀ j < 4, s.iv[j]? = some (reads (0x080 + 4 * j)) ∧ s.div[j]? = some (reads (0x090 + 4 * j)) := fun j hj => by
    rw [getElem?_eq_some_word _ hj, getElem?_eq_some_word _ hj]
    simp only [reads, hiv j hj, readReg, and_self]
  have hlanes : ∀ k < 16, s.v0[k]? = some (reads (0x100 + 4 * k)) ∧ s.v1[k]? = some (reads (0x140 + 4 * k)) ∧
      s.v2[k]? = some (reads (0x180 + 4 * k)) ∧ s.ks[k]? = some (reads (0x1C0 + 4 * k)) := fun k hk => by
    rw [getElem?_eq_some_word _ hk, getElem?_eq_some_word _ hk, getElem?_eq_some_word _ hk, getElem?_eq_some_word _ hk]
    simp only [reads, hlane k hk, readReg, and_self]
  have hreserved : ∀ off < 0x1000, (0x048 ≤ off ∧ off < 0x060) ∨ (0x0A0 ≤ off ∧ off < 0x100) ∨ 0x200 ≤ off →
      reads off = 0 := fun off hoff h => by
    have hr : regAt (BitVec.ofNat 12 off) = .reserved :=
      regAt_reserved (by rw [BitVec.toNat_ofNat, Nat.mod_eq_of_lt hoff]; exact h)
    simp only [reads, hr, readReg]
  exact ⟨rfl, readReg_cap_toNat s, readReg_ctrl_toNat s, rfl, rfl, rfl, rfl, BitVec.toNat_setWidth_of_le (by decide),
    BitVec.toNat_setWidth_of_le (by decide), rfl, rfl, lo32_toNat s.spos, hi32_toNat s.spos, lo32_toNat s.blkidx,
    hi32_toNat s.blkidx, rfl, BitVec.toNat_setWidth_of_le (by decide), hkeys, hivs, hlanes, hreserved⟩

end Sys2Proof.Machine
end

section
/-! Proofs of the statements about data memory (20_memory): the range check and the pre-check of a buffer, which bytes a
command can change, and which words in progress have a buffer that other agents race on. -/

namespace Sys2Proof

/-! ### The words of the commands with a buffer (30_encoding R80 .. R88) -/

/-- A word is its four fields, RSV, TIER, PRIM and OP from bit 31 down (R80). -/
theorem append_fields (w : Word) : rsvField w ++ tierField w ++ primField w ++ opField w = w := by
  apply BitVec.eq_of_toNat_eq
  simp only [Machine.toNat_append_eq, rsvField, tierField, primField, opField, BitVec.extractLsb'_toNat,
    Nat.shiftRight_eq_div_pow]
  omega

/-- Every TIER code is the code of the request it reads as (R83). -/
theorem TierReq.toField_ofField (f : BitVec 2) : (TierReq.ofField f).toField = f := by
  revert f; decide

/-- A PRIM code that reads as an integer primitive is that primitive's (R86). -/
theorem IntPrim.toField_of_ofField {f : BitVec 4} {p : IntPrim} (h : IntPrim.ofField f = some p) : p.toField = f := by
  revert f; cases p <;> decide

theorem encode_processOf (t : TierReq) (p : IntPrim) : encode (processOf t p) = commandWord 5 p.toField t := by
  cases p <;> rfl

theorem encode_sapplyOf (t : TierReq) (p : IntPrim) : encode (sapplyOf t p) = commandWord 7 p.toField t := by
  cases p <;> rfl

end Sys2Proof

namespace Sys2Proof.Machine

/-! ### The checks of a buffer (R66, R67) -/

/-- The pre-check answers the first rejected byte below the end of the buffer (R66). -/
theorem firstRejected_eq_some {p : Params} {n a j : Nat} (hj : j < n) (hrej : memAdmits p (a + j) = false)
    (hbelow : ∀ k < j, memAdmits p (a + k) = true) : firstRejected p n a = some (a + j) := by
  rcases firstRejected_cases p n a with ⟨-, hall⟩ | ⟨i, -, hi, hirej, hibelow⟩
  · cases hrej.symm.trans (hall j hj)
  · rcases Nat.lt_trichotomy i j with hlt | rfl | hgt
    · cases hirej.symm.trans (hbelow i hlt)
    · exact hi
    · cases hrej.symm.trans (hibelow j hgt)

/-- PROCESS with a check of INVALID_ARGUMENT that fails (R200). -/
theorem process_invalidArgument {p : IntPrim} {t : TierReq} {s : State} (hkey : 32 ≤ s.keylen.toNat)
    (hfail : resolve s.params t = none ∨ 16 < s.ivlen.toNat ∨ 2 ^ 32 < s.addr.toNat + s.len.toNat) :
    process p t s = raiseError .invalidArgument s := by
  rcases process_cases p t s with ⟨h, -⟩ | ⟨-, -, h⟩ | ⟨T, a, -, hT, hiv, hbuf, -⟩ | ⟨T, -, hT, hiv, hbuf, -⟩
  · omega
  · exact h
  · simp only [hT, reduceCtorEq, false_or] at hfail; omega
  · simp only [hT, reduceCtorEq, false_or] at hfail; omega

/-- SAPPLY with a check of INVALID_ARGUMENT that fails (R227). -/
theorem sapply_invalidArgument {p : IntPrim} {t : TierReq} {s : State} (hkey : 32 ≤ s.keylen.toNat)
    (hfail : resolve s.params t = none ∨ s.ivlen.toNat ≠ 16 ∨ 2 ^ 32 < s.addr.toNat + s.len.toNat ∨
      2 ^ 64 < s.spos.toNat + s.len.toNat) :
    sapply p t s = raiseError .invalidArgument s := by
  rcases sapply_cases p t s with ⟨h, -⟩ | ⟨-, -, h⟩ | ⟨T, a, -, hT, hiv, hbuf, hpos, -⟩ | ⟨T, -, hT, hiv, hbuf, hpos, -⟩
  · omega
  · exact h
  · simp only [hT, reduceCtorEq, false_or] at hfail; omega
  · simp only [hT, reduceCtorEq, false_or] at hfail; omega

/-- PROCESS that comes to its pre-check and finds a rejected byte (R200). -/
theorem process_accessFault {p : IntPrim} {t : TierReq} {T : Tier} {s : State} {a : Nat} (hkey : 32 ≤ s.keylen.toNat)
    (hT : resolve s.params t = some T) (hiv : s.ivlen.toNat ≤ 16) (hbuf : s.addr.toNat + s.len.toNat ≤ 2 ^ 32)
    (hrej : firstRejected s.params s.len.toNat s.addr.toNat = some a) : process p t s = raiseAccessFault a s := by
  rcases process_cases p t s with ⟨h, -⟩ | ⟨-, h, -⟩ | ⟨U, b, -, -, -, -, hb, h⟩ | ⟨U, -, -, -, -, hb, -⟩
  · omega
  · simp only [hT, reduceCtorEq, false_or] at h; omega
  · rw [h, Option.some.inj (hb.symm.trans hrej)]
  · cases hb.symm.trans hrej

/-- SAPPLY that comes to its pre-check and finds a rejected byte (R227). -/
theorem sapply_accessFault {p : IntPrim} {t : TierReq} {T : Tier} {s : State} {a : Nat} (hkey : 32 ≤ s.keylen.toNat)
    (hT : resolve s.params t = some T) (hiv : s.ivlen.toNat = 16) (hbuf : s.addr.toNat + s.len.toNat ≤ 2 ^ 32)
    (hpos : s.spos.toNat + s.len.toNat ≤ 2 ^ 64)
    (hrej : firstRejected s.params s.len.toNat s.addr.toNat = some a) : sapply p t s = raiseAccessFault a s := by
  rcases sapply_cases p t s with ⟨h, -⟩ | ⟨-, h, -⟩ | ⟨U, b, -, -, -, -, -, hb, h⟩ | ⟨U, -, -, -, -, -, hb, -⟩
  · omega
  · simp only [hT, reduceCtorEq, false_or] at h; omega
  · rw [h, Option.some.inj (hb.symm.trans hrej)]
  · cases hb.symm.trans hrej

/-- Settles O11: the pre-check finds byte j of the buffer, and the fault records the address of that byte. -/
theorem lowestRejectedAddressIsRecorded : Obligations.LowestRejectedAddressIsRecorded := by
  intro t T p s j hkey hT hbuf hj hrej hbelow faulted
  have hfirst := firstRejected_eq_some hj hrej hbelow
  have hfaulted : raiseAccessFault (s.addr.toNat + j) s = faulted := by
    simp [faulted, raiseAccessFault, raiseError, complete, BitVec.ofNat_add]
  refine ⟨fun hiv => ?_, fun hiv hpos => ?_⟩
  · rw [exec_processOf, process_accessFault hkey hT hiv hbuf hfirst, hfaulted]
  · rw [exec_sapplyOf, sapply_accessFault hkey hT hiv hbuf hpos hfirst, hfaulted]

/-- Settles O12: the range check is one of the checks of INVALID_ARGUMENT, for PROCESS and for SAPPLY. -/
theorem bufferNeverWraps : Obligations.BufferNeverWraps := by
  intro t T p s hkey _ hpast refused
  refine ⟨fun _ => ?_, fun _ => ?_⟩
  · rw [exec_processOf, process_invalidArgument hkey (.inr (.inr hpast))]; rfl
  · rw [exec_sapplyOf, sapply_invalidArgument hkey (.inr (.inr (.inl hpast)))]; rfl

/-! ### The bytes a command can change (R60, R65) -/

/-- `m'` is canonical and reads as `m` outside the n bytes from a on. -/
structure ChangedWithin (a n : Nat) (m m' : Memory) : Prop where
  wf : Memory.wf m' = true
  outside : ∀ b, ¬ (a ≤ b ∧ b < a + n) → readByte m' b = readByte m b

theorem ChangedWithin.refl {m : Memory} (h : Memory.wf m = true) (a n : Nat) : ChangedWithin a n m m :=
  ⟨h, fun _ _ => rfl⟩

/-- Two changes in turn, each inside a range. -/
theorem ChangedWithin.trans {a n a₁ n₁ a₂ n₂ : Nat} {m m₁ m₂ : Memory} (h₁ : ChangedWithin a₁ n₁ m m₁)
    (h₂ : ChangedWithin a₂ n₂ m₁ m₂) (lo₁ : a ≤ a₁) (hi₁ : a₁ + n₁ ≤ a + n) (lo₂ : a ≤ a₂) (hi₂ : a₂ + n₂ ≤ a + n) :
    ChangedWithin a n m m₂ :=
  ⟨h₂.wf, fun b hb => (h₂.outside b (by omega)).trans (h₁.outside b (by omega))⟩

/-- A run of XorByte changes no byte but those it has a key byte for (R65). -/
theorem changedWithin_xorBytes {m : Memory} (h : Memory.wf m = true) {a n : Nat} {ks : List Byte} (hks : ks.length ≤ n)
    (ha : a + n ≤ 2 ^ 32) : ChangedWithin a n m (xorBytes m a ks) :=
  ⟨wf_xorBytes h (by omega), fun b hb => by rw [readByte_xorBytes h (by omega), if_neg (by omega)]⟩

@[simp] theorem fetchBlock_mem (b : DWord) (p : IntPrim) (T : Tier) (s : State) : (fetchBlock b p T s).mem = s.mem := by
  rw [fetchBlock_frame]

/-- The apply loop changes at most the bytes it has to go, whatever the cache holds (R227). -/
theorem changedWithin_applyLoop (p : IntPrim) (T : Tier) {fuel left a pos : Nat} {s : State}
    (h : Memory.wf s.mem = true) (ha : a + left ≤ 2 ^ 32) :
    ChangedWithin a left s.mem (applyLoop p T fuel left a pos s).mem := by
  induction fuel generalizing left a pos s with
  | zero => exact .refl h a left
  | succ fuel ih =>
    unfold applyLoop
    split
    · exact .refl h a left
    · set n := min left (blockSize - pos % blockSize)
      set s₁ := fetchBlock (BitVec.ofNat 64 (pos / blockSize)) p T s
      have hmem : s₁.mem = s.mem := fetchBlock_mem ..
      have hn : n ≤ left := min_le_left ..
      have hrun : ChangedWithin a n s.mem (xorBytes s₁.mem a ((s₁.blkbuf.drop (pos % blockSize)).take n)) := by
        rw [hmem]
        exact changedWithin_xorBytes h (List.length_take_le ..) (by omega)
      exact hrun.trans (ih (left := left - n) (a := a + n) (s := { s₁ with mem := _ }) hrun.wf (by omega)) le_rfl
        (by omega) (by omega) (by omega)

theorem changedWithin_process (p : IntPrim) (t : TierReq) {s : State} (h : Memory.wf s.mem = true) :
    ChangedWithin s.addr.toNat s.len.toNat s.mem (process p t s).mem := by
  rcases process_cases p t s with ⟨-, e⟩ | ⟨-, -, e⟩ | ⟨T, a, -, -, -, -, -, e⟩ | ⟨T, -, -, -, hbuf, -, e⟩ <;> rw [e]
  · exact .refl h ..
  · exact .refl h ..
  · exact .refl h ..
  · exact changedWithin_xorBytes h (keystream_length ..).le hbuf

theorem changedWithin_sapply (p : IntPrim) (t : TierReq) {s : State} (h : Memory.wf s.mem = true) :
    ChangedWithin s.addr.toNat s.len.toNat s.mem (sapply p t s).mem := by
  rcases sapply_cases p t s with ⟨-, e⟩ | ⟨-, -, e⟩ | ⟨T, a, -, -, -, -, -, -, e⟩ | ⟨T, -, -, -, hbuf, -, -, e⟩ <;> rw [e]
  · exact .refl h ..
  · exact .refl h ..
  · exact .refl h ..
  · exact changedWithin_applyLoop p T h hbuf

/-- What a command does to memory: nothing, or it is a PROCESS or SAPPLY and changes bytes of its buffer (R60). -/
theorem exec_mem_cases {i : Instr} {s t : State} (h : exec i s = .next t) (hwf : Memory.wf s.mem = true) :
    t.mem = s.mem ∨
    (∃ q p, i = processOf q p ∨ i = sapplyOf q p) ∧ ChangedWithin s.addr.toNat s.len.toNat s.mem t.mem := by
  rcases exec_cases h with ⟨-, rfl⟩ | ⟨-, rfl⟩ | ⟨-, rfl⟩ | ⟨-, rfl⟩ | ⟨q, p, -, rfl⟩ | ⟨q, p, -, rfl⟩ |
    ⟨q, p, -, rfl⟩ | ⟨q, p, -, rfl⟩ | ⟨q, p, hi, rfl⟩ | ⟨q, p, hi, rfl⟩
  · exact .inl rfl
  · exact .inl rfl
  · exact .inl rfl
  · exact .inl rfl
  · exact .inl (by rw [ksgen_frame])
  · exact .inl (by rw [stepInt_frame])
  · exact .inl (by rw [stepFloat_frame])
  · exact .inl (by rw [derive_frame])
  · exact .inr ⟨⟨q, p, .inl hi⟩, changedWithin_process p q hwf⟩
  · exact .inr ⟨⟨q, p, .inr hi⟩, changedWithin_sapply p q hwf⟩

/-- Settles O24: by `exec_mem_cases`. -/
theorem onlyTheBufferChanges : Obligations.OnlyTheBufferChanges := by
  intro i s t hwf h
  rcases exec_mem_cases h hwf with hmem | ⟨⟨q, p, hi⟩, hchanged⟩
  · rw [hmem]
    exact ⟨hwf, fun _ => rfl, fun _ _ => rfl⟩
  · refine ⟨hchanged.wf, fun hne => ?_, hchanged.outside⟩
    obtain ⟨hnp, hns⟩ := hne q p
    exact absurd hi (not_or.mpr ⟨hnp, hns⟩)

/-! ### Races on the buffer (R72) -/

/-- The commands with a buffer take RSV = 0 and an integer primitive (R87, R88). -/
theorem isBufferCommand_iff_fields (w : Word) :
    isBufferCommand w = true ↔
      rsvField w = 0#18 ∧ (∃ p, IntPrim.ofField (primField w) = some p) ∧ (opField w = 5#8 ∨ opField w = 7#8) := by
  by_cases hrsv : rsvField w = 0#18
  · by_cases h5 : opField w = 5#8
    · cases hp : IntPrim.ofField (primField w) <;> simp [isBufferCommand, decode, decodeInt, hrsv, h5, hp]
    · by_cases h7 : opField w = 7#8
      · cases hp : IntPrim.ofField (primField w) <;> simp [isBufferCommand, decode, decodeInt, hrsv, h7, hp]
      · cases hd : decode w <;> simp [isBufferCommand, hd, h5, h7]
  · simp [isBufferCommand, decode, hrsv]

/-- The words in progress that have a buffer are the encodings of PROCESS and SAPPLY (R60, R88). -/
theorem isBufferCommand_iff (w : Word) :
    isBufferCommand w = true ↔ ∃ t p, w = encode (processOf t p) ∨ w = encode (sapplyOf t p) := by
  constructor
  · intro h
    obtain ⟨hrsv, ⟨p, hp⟩, hop⟩ := (isBufferCommand_iff_fields w).mp h
    have hw : w = commandWord (opField w) p.toField (TierReq.ofField (tierField w)) := by
      rw [commandWord, TierReq.toField_ofField, IntPrim.toField_of_ofField hp, ← hrsv, append_fields]
    refine ⟨TierReq.ofField (tierField w), p, ?_⟩
    rw [encode_processOf, encode_sapplyOf]
    rcases hop with hop | hop <;> rw [hop] at hw
    · exact .inl hw
    · exact .inr hw
  · rintro ⟨t, p, rfl | rfl⟩
    · cases t <;> cases p <;> rfl
    · cases t <;> cases p <;> rfl

/-- The bytes that other agents race on: the buffer of a PROCESS or SAPPLY in progress. -/
theorem inBusyBuffer_iff (a : Nat) (s : State) :
    inBusyBuffer a s = true ↔
      (∃ t p, s.inProgress = some (encode (processOf t p)) ∨ s.inProgress = some (encode (sapplyOf t p))) ∧
        s.addr.toNat ≤ a ∧ a < s.addr.toNat + s.len.toNat := by
  unfold inBusyBuffer
  cases s.inProgress with
  | none => simp
  | some w => simp [isBufferCommand_iff, and_assoc]

/-- Settles O23: the store by the law of a read after a write, the raced bytes by `inBusyBuffer_iff`. -/
theorem racedBufferBytesAreFree : Obligations.RacedBufferBytesAreFree := by
  intro s a b es hwf
  refine ⟨rfl, _, rfl, fun c => ?_, inBusyBuffer_iff a.toNat s⟩
  rw [readByte_writeByte hwf]
  by_cases hc : c = a.toNat
  · rw [if_pos hc, if_pos hc, hc]; rfl
  · rw [if_neg hc, if_neg hc]

end Sys2Proof.Machine
end

section
/-! Proofs of the statements about the encoding (30_encoding): the decoder and the encoder undo each other, which words
are illegal, and how many are legal. -/

namespace Sys2Proof

/-! ### A command word by its fields (R80 .. R84) -/

@[simp] theorem opField_commandWord (op : BitVec 8) (p : BitVec 4) (t : TierReq) : opField (commandWord op p t) = op :=
  BitVec.extractLsb'_append_eq_right

@[simp] theorem primField_commandWord (op : BitVec 8) (p : BitVec 4) (t : TierReq) :
    primField (commandWord op p t) = p := by
  rw [primField, commandWord, BitVec.extractLsb'_append_eq_of_le (by decide)]
  exact BitVec.extractLsb'_append_eq_right

@[simp] theorem tierField_commandWord (op : BitVec 8) (p : BitVec 4) (t : TierReq) :
    tierField (commandWord op p t) = t.toField := by
  rw [tierField, commandWord, BitVec.extractLsb'_append_eq_of_le (by decide),
    BitVec.extractLsb'_append_eq_of_le (by decide)]
  exact BitVec.extractLsb'_append_eq_right

@[simp] theorem rsvField_commandWord (op : BitVec 8) (p : BitVec 4) (t : TierReq) :
    rsvField (commandWord op p t) = 0#18 := by
  rw [rsvField, commandWord, BitVec.extractLsb'_append_eq_of_le (by decide),
    BitVec.extractLsb'_append_eq_of_le (by decide)]
  exact BitVec.extractLsb'_append_eq_left

theorem commandWord_eq_of_fields {w : Word} {op : BitVec 8} {p : BitVec 4} {t : TierReq} (hrsv : rsvField w = 0#18)
    (htier : tierField w = t.toField) (hprim : primField w = p) (hop : opField w = op) : commandWord op p t = w := by
  rw [commandWord, ← hrsv, ← htier, ← hprim, ← hop, append_fields]

theorem rsvField_toNat (w : Word) : (rsvField w).toNat = w.toNat / 2 ^ 14 := by
  simp only [rsvField, BitVec.extractLsb'_toNat, Nat.shiftRight_eq_div_pow]
  omega

theorem tierField_toNat (w : Word) : (tierField w).toNat = w.toNat / 2 ^ 12 % 4 := by
  simp only [tierField, BitVec.extractLsb'_toNat, Nat.shiftRight_eq_div_pow]

theorem primField_toNat (w : Word) : (primField w).toNat = w.toNat / 2 ^ 8 % 16 := by
  simp only [primField, BitVec.extractLsb'_toNat, Nat.shiftRight_eq_div_pow]

theorem opField_toNat (w : Word) : (opField w).toNat = w.toNat % 2 ^ 8 := by
  simp only [opField, BitVec.extractLsb'_toNat, Nat.shiftRight_zero]

/-! ### The codes of TIER and PRIM (R83, R86) -/

@[simp] theorem TierReq.ofField_toField (t : TierReq) : TierReq.ofField t.toField = t := by
  cases t <;> rfl

@[simp] theorem IntPrim.ofField_toField (p : IntPrim) : IntPrim.ofField p.toField = some p := by
  cases p <;> rfl

/-- The PRIM codes of R86 for the float primitives, which the model's `encode` writes constructor by constructor. -/
def FloatPrim.toField : FloatPrim → BitVec 4
  | .flog => 8
  | .ftent => 9
  | .fsine => 10
  | .fhenon => 11
  | .florenz => 12
  | .fchen => 13

@[simp] theorem FloatPrim.ofField_toField (p : FloatPrim) : FloatPrim.ofField p.toField = some p := by
  cases p <;> rfl

theorem FloatPrim.toField_of_ofField {f : BitVec 4} {p : FloatPrim} (h : FloatPrim.ofField f = some p) :
    p.toField = f := by
  revert f; cases p <;> decide

/-- No code names both an integer and a float primitive. -/
@[simp] theorem IntPrim.ofField_floatToField (p : FloatPrim) : IntPrim.ofField p.toField = none := by
  cases p <;> rfl

theorem IntPrim.ofField_eq_none_iff (f : BitVec 4) : IntPrim.ofField f = none ↔ 6 ≤ f.toNat := by
  revert f; decide

theorem ofField_eq_none_both_iff (f : BitVec 4) :
    IntPrim.ofField f = none ∧ FloatPrim.ofField f = none ↔ f.toNat ∈ [6, 7, 14, 15] := by
  revert f; decide

/-! ### The OP codes by the fields they take (R85, R87) -/

/-- The OP codes that take neither a primitive nor a tier, with their commands. -/
inductive PlainOp : BitVec 8 → Instr → Prop
  | nop : PlainOp 0 .nop
  | mix : PlainOp 1 .mix
  | ivder : PlainOp 6 .ivder
  | sinval : PlainOp 8 .sinval

/-- The OP codes that take a tier and an integer primitive only, with their families of commands. -/
inductive IntOp : BitVec 8 → (TierReq → IntPrim → Instr) → Prop
  | ksgen : IntOp 2 ksgenOf
  | derive : IntOp 4 deriveOf
  | process : IntOp 5 processOf
  | sapply : IntOp 7 sapplyOf

theorem PlainOp.toNat_mem {op : BitVec 8} {i : Instr} (h : PlainOp op i) : op.toNat ∈ [0x00, 0x01, 0x06, 0x08] := by
  cases h <;> decide

theorem IntOp.toNat_mem {op : BitVec 8} {mk : TierReq → IntPrim → Instr} (h : IntOp op mk) :
    op.toNat ∈ [0x02, 0x04, 0x05, 0x07] := by
  cases h <;> decide

/-- STEP (OP 3) is the one OP that takes a primitive of both kinds; from 9 on the codes are reserved. -/
theorem op_cases (op : BitVec 8) : (∃ i, PlainOp op i) ∨ (∃ mk, IntOp op mk) ∨ op = 3 ∨ 9 ≤ op.toNat := by
  by_cases hres : 9 ≤ op.toNat
  · exact .inr (.inr (.inr hres))
  · have hop : op = 0 ∨ op = 1 ∨ op = 2 ∨ op = 3 ∨ op = 4 ∨ op = 5 ∨ op = 6 ∨ op = 7 ∨ op = 8 := by bv_omega
    rcases hop with rfl | rfl | rfl | rfl | rfl | rfl | rfl | rfl | rfl
    · exact .inl ⟨_, .nop⟩
    · exact .inl ⟨_, .mix⟩
    · exact .inr (.inl ⟨_, .ksgen⟩)
    · exact .inr (.inr (.inl rfl))
    · exact .inr (.inl ⟨_, .derive⟩)
    · exact .inr (.inl ⟨_, .process⟩)
    · exact .inl ⟨_, .ivder⟩
    · exact .inr (.inl ⟨_, .sapply⟩)
    · exact .inl ⟨_, .sinval⟩

/-- Every command has one of these OP codes, or is a STEP (R91). -/
theorem instr_op_cases (i : Instr) :
    (∃ op, PlainOp op i) ∨ (∃ op mk t p, IntOp op mk ∧ i = mk t p) ∨ (∃ t p, i = stepIntOf t p) ∨
      ∃ t p, i = stepFloatOf t p := by
  rcases Machine.instr_cases i with rfl | rfl | rfl | rfl | ⟨t, p, rfl⟩ | h | h | ⟨t, p, rfl⟩ | ⟨t, p, rfl⟩ | ⟨t, p, rfl⟩
  · exact .inl ⟨_, .nop⟩
  · exact .inl ⟨_, .mix⟩
  · exact .inl ⟨_, .ivder⟩
  · exact .inl ⟨_, .sinval⟩
  · exact .inr (.inl ⟨_, _, t, p, .ksgen, rfl⟩)
  · exact .inr (.inr (.inl h))
  · exact .inr (.inr (.inr h))
  · exact .inr (.inl ⟨_, _, t, p, .derive, rfl⟩)
  · exact .inr (.inl ⟨_, _, t, p, .process, rfl⟩)
  · exact .inr (.inl ⟨_, _, t, p, .sapply, rfl⟩)

/-! ### The encoder by OP code (R80, R85, R86) -/

theorem encode_plain {op : BitVec 8} {i : Instr} (h : PlainOp op i) : encode i = commandWord op 0 .auto := by
  cases h <;> rfl

theorem encode_int {op : BitVec 8} {mk : TierReq → IntPrim → Instr} (h : IntOp op mk) (t : TierReq) (p : IntPrim) :
    encode (mk t p) = commandWord op p.toField t := by
  cases h <;> cases p <;> rfl

theorem encode_stepIntOf (t : TierReq) (p : IntPrim) : encode (stepIntOf t p) = commandWord 3 p.toField t := by
  cases p <;> rfl

theorem encode_stepFloatOf (t : TierReq) (p : FloatPrim) : encode (stepFloatOf t p) = commandWord 3 p.toField t := by
  cases p <;> rfl

/-! ### The decoder by OP code (R88, R89) -/

theorem decode_reservedBitSet {w : Word} (hrsv : rsvField w ≠ 0#18) : decode w = .error .reservedBitSet := by
  simp [decode, hrsv]

theorem decode_plain {w : Word} {op : BitVec 8} {i : Instr} (hrsv : rsvField w = 0#18) (hop : opField w = op)
    (h : PlainOp op i) : decode w = decodePlain (primField w) (tierField w) i := by
  cases h <;> simp [decode, hrsv, hop]

theorem decode_int {w : Word} {op : BitVec 8} {mk : TierReq → IntPrim → Instr} (hrsv : rsvField w = 0#18)
    (hop : opField w = op) (h : IntOp op mk) :
    decode w = decodeInt (primField w) (mk (TierReq.ofField (tierField w))) := by
  cases h <;> simp [decode, hrsv, hop]

theorem decode_step {w : Word} (hrsv : rsvField w = 0#18) (hop : opField w = 3) :
    decode w = decodeStep (primField w) (TierReq.ofField (tierField w)) := by
  simp [decode, hrsv, hop]

theorem decode_reservedOp {w : Word} (hrsv : rsvField w = 0#18) (hop : 9 ≤ (opField w).toNat) :
    decode w = .error .reservedOp := by
  obtain ⟨k, hk⟩ := Nat.exists_eq_add_of_le' hop
  simp [decode, hrsv, hk]

/-- All that the decoder can do with a word. -/
theorem decode_cases (w : Word) :
    (rsvField w ≠ 0#18 ∧ decode w = .error .reservedBitSet) ∨
    rsvField w = 0#18 ∧
      ((∃ i, PlainOp (opField w) i ∧ decode w = decodePlain (primField w) (tierField w) i) ∨
      (∃ mk, IntOp (opField w) mk ∧ decode w = decodeInt (primField w) (mk (TierReq.ofField (tierField w)))) ∨
      (opField w = 3 ∧ decode w = decodeStep (primField w) (TierReq.ofField (tierField w))) ∨
      (9 ≤ (opField w).toNat ∧ decode w = .error .reservedOp)) := by
  by_cases hrsv : rsvField w = 0#18
  · rcases op_cases (opField w) with ⟨i, h⟩ | ⟨mk, h⟩ | h | h
    · exact .inr ⟨hrsv, .inl ⟨i, h, decode_plain hrsv rfl h⟩⟩
    · exact .inr ⟨hrsv, .inr (.inl ⟨mk, h, decode_int hrsv rfl h⟩)⟩
    · exact .inr ⟨hrsv, .inr (.inr (.inl ⟨h, decode_step hrsv h⟩))⟩
    · exact .inr ⟨hrsv, .inr (.inr (.inr ⟨h, decode_reservedOp hrsv h⟩))⟩
  · exact .inl ⟨hrsv, decode_reservedBitSet hrsv⟩

theorem decodePlain_eq_ok_iff {p : BitVec 4} {t : BitVec 2} {i j : Instr} :
    decodePlain p t i = .ok j ↔ p = 0 ∧ t = 0 ∧ i = j := by
  unfold decodePlain
  split_ifs <;> simp_all

theorem decodeInt_eq_ok_iff {f : BitVec 4} {mk : IntPrim → Instr} {i : Instr} :
    decodeInt f mk = .ok i ↔ ∃ p, IntPrim.ofField f = some p ∧ mk p = i := by
  unfold decodeInt
  cases IntPrim.ofField f <;> simp

theorem decodeStep_eq_ok_iff {f : BitVec 4} {t : TierReq} {i : Instr} :
    decodeStep f t = .ok i ↔
      (∃ p, IntPrim.ofField f = some p ∧ stepIntOf t p = i) ∨
      (IntPrim.ofField f = none ∧ ∃ p, FloatPrim.ofField f = some p ∧ stepFloatOf t p = i) := by
  unfold decodeStep
  cases IntPrim.ofField f <;> cases FloatPrim.ofField f <;> simp

theorem decodePlain_isError_iff {p : BitVec 4} {t : BitVec 2} {i : Instr} :
    (∃ e, decodePlain p t i = .error e) ↔ p.toNat ≠ 0 ∨ t.toNat ≠ 0 := by
  unfold decodePlain
  split_ifs <;> simp_all [BitVec.toNat_eq]

theorem decodeInt_isError_iff {f : BitVec 4} {mk : IntPrim → Instr} :
    (∃ e, decodeInt f mk = .error e) ↔ 6 ≤ f.toNat := by
  rw [← IntPrim.ofField_eq_none_iff, decodeInt]
  cases IntPrim.ofField f <;> simp

theorem decodeStep_isError_iff {f : BitVec 4} {t : TierReq} :
    (∃ e, decodeStep f t = .error e) ↔ f.toNat ∈ [6, 7, 14, 15] := by
  rw [← ofField_eq_none_both_iff, decodeStep]
  cases IntPrim.ofField f <;> cases FloatPrim.ofField f <;> simp

/-! ### Decoding inverts encoding (R80, R85 .. R88) -/

theorem decode_encode (i : Instr) : decode (encode i) = .ok i := by
  rcases instr_op_cases i with ⟨op, h⟩ | ⟨op, mk, t, p, h, rfl⟩ | ⟨t, p, rfl⟩ | ⟨t, p, rfl⟩
  · rw [encode_plain h, decode_plain (by simp) (by simp) h]
    simp [decodePlain_eq_ok_iff, TierReq.toField]
  · rw [encode_int h, decode_int (by simp) (by simp) h]
    simp [decodeInt_eq_ok_iff]
  · rw [encode_stepIntOf, decode_step (by simp) (by simp)]
    simp [decodeStep_eq_ok_iff]
  · rw [encode_stepFloatOf, decode_step (by simp) (by simp)]
    simp [decodeStep_eq_ok_iff]

theorem decode_of_encode {w : Word} {i : Instr} (h : encode i = w) : decode w = .ok i :=
  h ▸ decode_encode i

theorem encode_of_decode {w : Word} {i : Instr} (h : decode w = .ok i) : encode i = w := by
  have htier := (TierReq.toField_ofField (tierField w)).symm
  rcases decode_cases w with ⟨-, hd⟩ | ⟨hrsv, ⟨j, hop, hd⟩ | ⟨mk, hop, hd⟩ | ⟨hop, hd⟩ | ⟨-, hd⟩⟩ <;> rw [hd] at h
  · cases h
  · obtain ⟨hprim, htier, rfl⟩ := decodePlain_eq_ok_iff.mp h
    rw [encode_plain hop]
    exact commandWord_eq_of_fields hrsv htier hprim rfl
  · obtain ⟨p, hp, rfl⟩ := decodeInt_eq_ok_iff.mp h
    rw [encode_int hop]
    exact commandWord_eq_of_fields hrsv htier (IntPrim.toField_of_ofField hp).symm rfl
  · rcases decodeStep_eq_ok_iff.mp h with ⟨p, hp, rfl⟩ | ⟨-, p, hp, rfl⟩
    · rw [encode_stepIntOf]
      exact commandWord_eq_of_fields hrsv htier (IntPrim.toField_of_ofField hp).symm hop
    · rw [encode_stepFloatOf]
      exact commandWord_eq_of_fields hrsv htier (FloatPrim.toField_of_ofField hp).symm hop
  · cases h

/-- Settles O1: one direction follows the decoder's branches, the other the families of commands. -/
theorem decodeInvertsEncode : Obligations.DecodeInvertsEncode :=
  fun _ _ => ⟨encode_of_decode, decode_of_encode⟩

/-- Settles O4: each word of the table is the encoding of its command. -/
theorem decodesTheTableOfWords : Obligations.DecodesTheTableOfWords :=
  ⟨decode_of_encode rfl, decode_of_encode rfl, decode_of_encode rfl, decode_of_encode rfl, decode_of_encode rfl,
    decode_of_encode rfl, decode_of_encode rfl, decode_of_encode rfl, decode_of_encode rfl, decode_of_encode rfl⟩

/-! ### The number of legal words (R91) -/

theorem encode_injective : Function.Injective encode :=
  Function.LeftInverse.injective (g := fun w => (decode w).toOption.getD .nop) fun i => by
    simp [decode_encode, Except.toOption]

theorem mem_allInstrs (i : Instr) : i ∈ Machine.allInstrs := by
  rcases Machine.instr_cases i with rfl | rfl | rfl | rfl | ⟨t, p, rfl⟩ | ⟨t, p, rfl⟩ | ⟨t, p, rfl⟩ | ⟨t, p, rfl⟩ |
    ⟨t, p, rfl⟩ | ⟨t, p, rfl⟩
  · decide
  · decide
  · decide
  · decide
  all_goals cases t <;> cases p <;> decide

theorem allInstrs_nodup : Machine.allInstrs.Nodup := by decide +kernel

/-- The legal words are the encodings of the commands. -/
theorem legalWords_eq : {w : Word | ∃ i, decode w = .ok i} = Machine.allInstrs.toFinset.image encode := by
  ext w
  simp [decodeInvertsEncode w, mem_allInstrs]

/-- Settles O3: the encoder is injective on the 148 commands. -/
theorem legalWordsAre148 : Obligations.LegalWordsAre148 := by
  unfold Obligations.LegalWordsAre148
  rw [legalWords_eq, Set.ncard_coe_finset, Finset.card_image_of_injective _ encode_injective,
    List.toFinset_card_of_nodup allInstrs_nodup]
  rfl

/-! ### The illegal words (R89) -/

/-- R89's list, in the fields of the word. -/
theorem decode_isError_iff (w : Word) :
    (∃ e, decode w = .error e) ↔
      (rsvField w).toNat ≠ 0 ∨ 9 ≤ (opField w).toNat ∨
      ((opField w).toNat ∈ [0x00, 0x01, 0x06, 0x08] ∧ ((primField w).toNat ≠ 0 ∨ (tierField w).toNat ≠ 0)) ∨
      ((opField w).toNat ∈ [0x02, 0x04, 0x05, 0x07] ∧ 6 ≤ (primField w).toNat) ∨
      ((opField w).toNat = 0x03 ∧ (primField w).toNat ∈ [6, 7, 14, 15]) := by
  rcases decode_cases w with ⟨hrsv, hd⟩ | ⟨hrsv, ⟨i, hop, hd⟩ | ⟨mk, hop, hd⟩ | ⟨hop, hd⟩ | ⟨hop, hd⟩⟩ <;> rw [hd]
  · exact iff_of_true ⟨_, rfl⟩ (.inl (BitVec.toNat_ne.mp hrsv))
  · have hmem := hop.toNat_mem
    have hrsv0 : (rsvField w).toNat = 0 := congrArg BitVec.toNat hrsv
    rw [decodePlain_isError_iff]
    simp only [List.mem_cons, List.not_mem_nil, or_false] at hmem ⊢
    omega
  · have hmem := hop.toNat_mem
    have hrsv0 : (rsvField w).toNat = 0 := congrArg BitVec.toNat hrsv
    rw [decodeInt_isError_iff]
    simp only [List.mem_cons, List.not_mem_nil, or_false] at hmem ⊢
    omega
  · rw [decodeStep_isError_iff]
    simp [hrsv, hop]
  · exact iff_of_true ⟨_, rfl⟩ (.inr (.inl hop))

/-- Settles O2: the list by the decoder's branches, the CMD write by O6. -/
theorem illegalCommandWords : Obligations.IllegalCommandWords := by
  refine ⟨fun w => ?_, fun s c e es hb hd => (Machine.issueTakesTheCommandWord s c es).2.1 e hb hd⟩
  rw [decode_isError_iff, rsvField_toNat, opField_toNat, primField_toNat, tierField_toNat]

end Sys2Proof
end

section
/-! The binary64 operations of 40_primitives R111 (00_scope R14): patterns as sign and magnitude, the magnitudes as a
rising scale of units, and the one rounding of every operation. -/

namespace Sys2Proof.Machine

/-! ### A pattern is its sign and its magnitude -/

theorem magnitude_lt (a : F64) : magnitude a < 2 ^ 63 := Nat.mod_lt _ (by norm_num)

theorem signBit_eq_true_iff (a : F64) : signBit a = true ↔ 2 ^ 63 ≤ a.toNat := decide_eq_true_iff

theorem signBit_eq_false_iff (a : F64) : signBit a = false ↔ a.toNat < 2 ^ 63 := by
  rw [← Bool.not_eq_true, signBit_eq_true_iff, Nat.not_le]

theorem toNat_packFloat (sign : Bool) {m : Nat} (hm : m < 2 ^ 63) :
    (packFloat sign m).toNat = (if sign then 2 ^ 63 else 0) + m := by
  rw [packFloat, BitVec.toNat_ofNat, Nat.mod_eq_of_lt]
  cases sign <;> simp <;> omega

theorem magnitude_packFloat (sign : Bool) {m : Nat} (hm : m < 2 ^ 63) : magnitude (packFloat sign m) = m := by
  rw [magnitude, toNat_packFloat sign hm]
  cases sign
  · simp only [Bool.false_eq_true, if_false]
    omega
  · simp only [if_true]
    omega

theorem signBit_packFloat (sign : Bool) {m : Nat} (hm : m < 2 ^ 63) : signBit (packFloat sign m) = sign := by
  rw [signBit, toNat_packFloat sign hm]
  cases sign
  · simpa using hm
  · simp

theorem packFloat_signBit_magnitude (a : F64) : packFloat (signBit a) (magnitude a) = a := by
  apply BitVec.eq_of_toNat_eq
  rw [toNat_packFloat _ (magnitude_lt a), magnitude]
  have ha := a.isLt
  cases hs : signBit a
  · rw [signBit_eq_false_iff] at hs
    simp only [Bool.false_eq_true, if_false]
    omega
  · rw [signBit_eq_true_iff] at hs
    simp only [if_true]
    omega

theorem infMagnitude_lt : infMagnitude < 2 ^ 63 := by decide

/-! ### The scale of the finite magnitudes -/

/-- The units of 2^-1074 of a magnitude pattern (`units` of a value is this of its magnitude). -/
def magnitudeUnits (m : Nat) : Nat :=
  if m / 2 ^ 52 = 0 then m % 2 ^ 52 else (2 ^ 52 + m % 2 ^ 52) * 2 ^ (m / 2 ^ 52 - 1)

theorem units_eq (a : F64) : units a = magnitudeUnits (magnitude a) := rfl

theorem units_packFloat (sign : Bool) {m : Nat} (hm : m < 2 ^ 63) : units (packFloat sign m) = magnitudeUnits m := by
  rw [units_eq, magnitude_packFloat sign hm]

/-- In binade k the pattern counts multiples of 2^k units, up to and with the first value of the next binade. -/
theorem magnitudeUnits_binade {k q : Nat} (hnorm : k = 0 ∨ 2 ^ 52 ≤ q) (hq : q ≤ 2 ^ 53) :
    magnitudeUnits (k * 2 ^ 52 + q) = q * 2 ^ k := by
  rw [magnitudeUnits]
  rcases Nat.lt_or_ge q (2 ^ 52) with hsub | hge
  · obtain rfl : k = 0 := by omega
    rw [if_pos (by omega)]
    omega
  · rw [if_neg (by omega)]
    rcases Nat.lt_or_eq_of_le hq with hlt | rfl
    · have hdiv : (k * 2 ^ 52 + q) / 2 ^ 52 - 1 = k := by omega
      have hmod : 2 ^ 52 + (k * 2 ^ 52 + q) % 2 ^ 52 = q := by omega
      rw [hdiv, hmod]
    · have hdiv : (k * 2 ^ 52 + 2 ^ 53) / 2 ^ 52 - 1 = k + 1 := by omega
      have hmod : (k * 2 ^ 52 + 2 ^ 53) % 2 ^ 52 = 0 := by omega
      rw [hdiv, hmod, Nat.pow_succ]
      omega

/-- Every magnitude pattern lies in a binade. -/
theorem exists_binade (m : Nat) : ∃ k q, m = k * 2 ^ 52 + q ∧ (k = 0 ∨ 2 ^ 52 ≤ q) ∧ q < 2 ^ 53 := by
  rcases Nat.lt_or_ge m (2 ^ 53) with h | h
  · exact ⟨0, m, by omega, .inl rfl, h⟩
  · exact ⟨m / 2 ^ 52 - 1, 2 ^ 52 + m % 2 ^ 52, by omega, .inr (by omega), by omega⟩

theorem magnitudeUnits_strictMono : StrictMono magnitudeUnits := by
  refine strictMono_nat_of_lt_succ fun m => ?_
  obtain ⟨k, q, rfl, hnorm, hq⟩ := exists_binade m
  rw [magnitudeUnits_binade hnorm hq.le, Nat.add_assoc, magnitudeUnits_binade (by omega) hq]
  exact Nat.mul_lt_mul_of_pos_right (Nat.lt_succ_self q) (Nat.two_pow_pos k)

theorem magnitudeUnits_eq_zero_iff {m : Nat} : magnitudeUnits m = 0 ↔ m = 0 :=
  magnitudeUnits_strictMono.injective.eq_iff (a := m) (b := 0)

/-- The pattern after one of binade k stands for at least 2^k units more. -/
theorem succ_mul_le_magnitudeUnits_succ {k q : Nat} (hnorm : k = 0 ∨ 2 ^ 52 ≤ q) (hq : q ≤ 2 ^ 53) :
    (q + 1) * 2 ^ k ≤ magnitudeUnits (k * 2 ^ 52 + q + 1) := by
  rcases Nat.lt_or_eq_of_le hq with hlt | rfl
  · rw [Nat.add_assoc, magnitudeUnits_binade (by omega) hlt]
  · have hnext : k * 2 ^ 52 + 2 ^ 53 + 1 = (k + 1) * 2 ^ 52 + (2 ^ 52 + 1) := by omega
    rw [hnext, magnitudeUnits_binade (by omega) (by omega), Nat.pow_succ]
    omega

/-! ### The rounding -/

/-- `roundHalfEven` is within half of the exact quotient, and even where it is exactly half away. -/
theorem roundHalfEven_spec (num : Nat) {den : Nat} (hden : 0 < den) :
    2 * num ≤ 2 * (roundHalfEven num den * den) + den ∧ 2 * (roundHalfEven num den * den) ≤ 2 * num + den ∧
    (2 * num = 2 * (roundHalfEven num den * den) + den ∨ 2 * (roundHalfEven num den * den) = 2 * num + den →
      roundHalfEven num den % 2 = 0) := by
  have hdiv := Nat.div_add_mod' num den
  have hmod := Nat.mod_lt num hden
  rw [roundHalfEven]
  split
  · rw [Nat.add_mul, Nat.one_mul]
    omega
  · omega

/-- The binade in which num / den units are rounded. -/
def roundingBinade (num den : Nat) : Nat := Nat.log2 (num / den) - 52

/-- `roundUnits` before what passes the greatest finite magnitude becomes an infinity. -/
def roundUnbounded (num den : Nat) : Nat :=
  roundingBinade num den * 2 ^ 52 + roundHalfEven num (den * 2 ^ roundingBinade num den)

theorem roundUnits_eq_min (num den : Nat) : roundUnits num den = min (roundUnbounded num den) infMagnitude := rfl

theorem roundUnits_le_infMagnitude (num den : Nat) : roundUnits num den ≤ infMagnitude := Nat.min_le_right _ _

theorem roundUnits_lt (num den : Nat) : roundUnits num den < 2 ^ 63 :=
  Nat.lt_of_le_of_lt (roundUnits_le_infMagnitude num den) infMagnitude_lt

/-- The exact quotient has at most 53 bits in its binade, and exactly 53 above the lowest one. -/
theorem roundingBinade_spec (num : Nat) {den : Nat} (hden : 0 < den) :
    (roundingBinade num den = 0 ∨ 2 ^ 52 * (den * 2 ^ roundingBinade num den) ≤ num) ∧
    num < 2 ^ 53 * (den * 2 ^ roundingBinade num den) := by
  rw [roundingBinade]
  have hlog : num / den < 2 ^ (Nat.log2 (num / den) + 1) := Nat.lt_log2_self
  constructor
  · rcases Nat.le_total (Nat.log2 (num / den)) 52 with hle | hge
    · exact .inl (by omega)
    · have hpos : num / den ≠ 0 := fun h => by simp [h] at hge
      have hself := (Nat.le_div_iff_mul_le hden).mp (Nat.log2_self_le hpos)
      right
      calc 2 ^ 52 * (den * 2 ^ (Nat.log2 (num / den) - 52))
          = 2 ^ (52 + (Nat.log2 (num / den) - 52)) * den := by rw [Nat.pow_add]; ring
        _ = 2 ^ Nat.log2 (num / den) * den := by rw [Nat.add_sub_cancel' hge]
        _ ≤ num := hself
  · calc num < 2 ^ (Nat.log2 (num / den) + 1) * den := (Nat.div_lt_iff_lt_mul hden).mp hlog
      _ ≤ 2 ^ (53 + (Nat.log2 (num / den) - 52)) * den :=
          Nat.mul_le_mul_right _ (Nat.pow_le_pow_right (by norm_num) (by omega))
      _ = 2 ^ 53 * (den * 2 ^ (Nat.log2 (num / den) - 52)) := by rw [Nat.pow_add]; ring

/-- The significand that is rounded to lies in its binade. -/
theorem roundHalfEven_binade (num : Nat) {den : Nat} (hden : 0 < den) :
    (roundingBinade num den = 0 ∨ 2 ^ 52 ≤ roundHalfEven num (den * 2 ^ roundingBinade num den)) ∧
    roundHalfEven num (den * 2 ^ roundingBinade num den) ≤ 2 ^ 53 := by
  obtain ⟨hlow, hhigh⟩ := roundingBinade_spec num hden
  have hulp : 0 < den * 2 ^ roundingBinade num den := by positivity
  generalize den * 2 ^ roundingBinade num den = ulp at *
  obtain ⟨hle, hge, -⟩ := roundHalfEven_spec num hulp
  refine ⟨hlow.imp_right fun h => ?_, ?_⟩
  · by_contra! hlt
    have := Nat.mul_le_mul_right ulp (show roundHalfEven num ulp + 1 ≤ 2 ^ 52 from hlt)
    rw [Nat.succ_mul] at this
    omega
  · by_contra! hlt
    have := Nat.mul_le_mul_right ulp (show 2 ^ 53 + 1 ≤ roundHalfEven num ulp from hlt)
    rw [Nat.succ_mul] at this
    omega

theorem magnitudeUnits_roundUnbounded (num : Nat) {den : Nat} (hden : 0 < den) :
    magnitudeUnits (roundUnbounded num den) =
      roundHalfEven num (den * 2 ^ roundingBinade num den) * 2 ^ roundingBinade num den :=
  magnitudeUnits_binade (roundHalfEven_binade num hden).1 (roundHalfEven_binade num hden).2

/-- The exact value is not past the middle between the rounded magnitude and a greater one, and where it is in the
middle the rounded one is even. -/
theorem two_mul_le_of_roundUnbounded_lt {num den j : Nat} (hden : 0 < den) (hj : roundUnbounded num den < j) :
    2 * num ≤ (magnitudeUnits (roundUnbounded num den) + magnitudeUnits j) * den ∧
    (2 * num = (magnitudeUnits (roundUnbounded num den) + magnitudeUnits j) * den → roundUnbounded num den % 2 = 0) := by
  obtain ⟨hnorm, hq⟩ := roundHalfEven_binade num hden
  have hnext := succ_mul_le_magnitudeUnits_succ hnorm hq
  have hmono := magnitudeUnits_strictMono.monotone hj
  have hulp : 0 < den * 2 ^ roundingBinade num den := by positivity
  obtain ⟨hle, -, heven⟩ := roundHalfEven_spec num hulp
  rw [magnitudeUnits_roundUnbounded num hden]
  unfold roundUnbounded at *
  generalize roundHalfEven num (den * 2 ^ roundingBinade num den) = q at *
  have hgap : (q + 1) * 2 ^ roundingBinade num den * den ≤ magnitudeUnits j * den :=
    Nat.mul_le_mul_right _ (hnext.trans hmono)
  have hexp : (q + 1) * 2 ^ roundingBinade num den * den =
      q * (den * 2 ^ roundingBinade num den) + den * 2 ^ roundingBinade num den := by ring
  have hsum : (q * 2 ^ roundingBinade num den + magnitudeUnits j) * den =
      q * (den * 2 ^ roundingBinade num den) + magnitudeUnits j * den := by ring
  rw [hsum]
  omega

/-- The exact value is not short of the middle between a lesser magnitude and the rounded one, and where it is in the
middle the rounded one is even. -/
theorem le_two_mul_of_lt_roundUnbounded {num den j : Nat} (hden : 0 < den) (hj : j < roundUnbounded num den) :
    (magnitudeUnits j + magnitudeUnits (roundUnbounded num den)) * den ≤ 2 * num ∧
    ((magnitudeUnits j + magnitudeUnits (roundUnbounded num den)) * den = 2 * num → roundUnbounded num den % 2 = 0) := by
  have hlt := Nat.mul_lt_mul_of_pos_right (magnitudeUnits_strictMono hj) hden
  obtain ⟨hlow, -⟩ := roundingBinade_spec num hden
  have hq := (roundHalfEven_binade num hden).2
  have hulp : 0 < den * 2 ^ roundingBinade num den := by positivity
  obtain ⟨-, hge, heven⟩ := roundHalfEven_spec num hulp
  rw [Nat.add_mul]
  have hround : magnitudeUnits (roundUnbounded num den) * den =
      roundHalfEven num (den * 2 ^ roundingBinade num den) * (den * 2 ^ roundingBinade num den) := by
    rw [magnitudeUnits_roundUnbounded num hden]; ring
  rcases Nat.lt_or_ge num (magnitudeUnits (roundUnbounded num den) * den) with hup | hdown
  · -- rounded up: the magnitude below is one unit in the last place lower, in the same binade
    rw [hround] at hup ⊢
    unfold roundUnbounded at hj ⊢
    generalize roundHalfEven num (den * 2 ^ roundingBinade num den) = q at *
    obtain ⟨p, rfl⟩ : ∃ p, q = p + 1 := Nat.exists_eq_succ_of_ne_zero (by rintro rfl; simp at hup)
    have hnorm : roundingBinade num den = 0 ∨ 2 ^ 52 ≤ p := hlow.imp_right fun h =>
      Nat.lt_succ_iff.mp (Nat.lt_of_mul_lt_mul_right (Nat.lt_of_le_of_lt h hup))
    have hbelow : magnitudeUnits j ≤ p * 2 ^ roundingBinade num den :=
      (magnitudeUnits_strictMono.monotone (Nat.lt_succ_iff.mp hj)).trans_eq (magnitudeUnits_binade hnorm (by omega))
    have hgap := Nat.mul_le_mul_right den hbelow
    have hassoc : p * 2 ^ roundingBinade num den * den = p * (den * 2 ^ roundingBinade num den) := by ring
    have hsplit := Nat.add_one_mul p (den * 2 ^ roundingBinade num den)
    omega
  · omega

/-- `roundUnits` keeps below a magnitude that the exact value does not pass. -/
theorem roundUnits_le_of_le {num den j : Nat} (hden : 0 < den) (h : num ≤ magnitudeUnits j * den) :
    roundUnits num den ≤ j := by
  rw [roundUnits_eq_min]
  refine (Nat.min_le_left _ _).trans (Nat.le_of_not_lt fun hlt => ?_)
  have hmid := (le_two_mul_of_lt_roundUnbounded hden hlt).1
  have hmono := Nat.mul_lt_mul_of_pos_right (magnitudeUnits_strictMono hlt) hden
  rw [Nat.add_mul] at hmid
  omega

/-- `roundUnits` comes up to a magnitude that the exact value reaches, infinity at most. -/
theorem le_roundUnits_of_le {num den j : Nat} (hden : 0 < den) (hj : j ≤ infMagnitude)
    (h : magnitudeUnits j * den ≤ num) : j ≤ roundUnits num den := by
  rw [roundUnits_eq_min]
  refine Nat.le_min.mpr ⟨Nat.le_of_not_lt fun hlt => ?_, hj⟩
  have hmid := (two_mul_le_of_roundUnbounded_lt hden hlt).1
  have hmono := Nat.mul_lt_mul_of_pos_right (magnitudeUnits_strictMono hlt) hden
  rw [Nat.add_mul] at hmid
  omega

/-- The middle between the greatest finite magnitude and what would follow it. -/
theorem magnitudeUnits_overflow :
    magnitudeUnits (infMagnitude - 1) + magnitudeUnits infMagnitude = 2 * ((2 ^ 54 - 1) * 2 ^ 2044) := by
  decide +kernel

/-- Overflow begins half a unit in the last place above the greatest finite magnitude, whose pattern is odd. -/
theorem infMagnitude_le_roundUnbounded_iff {num den : Nat} (hden : 0 < den) :
    infMagnitude ≤ roundUnbounded num den ↔ (2 ^ 54 - 1) * 2 ^ 2044 * den ≤ num := by
  have hmiddle := congrArg (· * den) magnitudeUnits_overflow
  have hpred : infMagnitude - 1 < infMagnitude := by decide
  have hodd : (infMagnitude - 1) % 2 = 1 := by decide
  generalize (2 ^ 54 - 1) * 2 ^ 2044 = threshold at *
  simp only [Nat.add_mul, Nat.mul_assoc] at hmiddle
  constructor
  · intro h
    have hmid := (le_two_mul_of_lt_roundUnbounded hden (Nat.lt_of_lt_of_le hpred h)).1
    have hmono := Nat.mul_le_mul_right den (magnitudeUnits_strictMono.monotone h)
    rw [Nat.add_mul] at hmid
    omega
  · intro h
    by_contra! hlt
    obtain ⟨hmid, heven⟩ := two_mul_le_of_roundUnbounded_lt hden hlt
    rw [Nat.add_mul] at hmid heven
    have hle : roundUnbounded num den ≤ infMagnitude - 1 := Nat.le_sub_one_of_lt hlt
    rcases Nat.lt_or_eq_of_le hle with hbelow | heq
    · have hmono := Nat.mul_lt_mul_of_pos_right (magnitudeUnits_strictMono hbelow) hden
      omega
    · rw [heq] at hmid heven
      omega

/-- Settles O32: the exact value lies on the rounded magnitude's side of the middle to any other magnitude. -/
theorem roundingIsNearestTiesToEven : Obligations.RoundingIsNearestTiesToEven := by
  intro num den hden m distance
  refine ⟨?_, fun hm k hk => ?_⟩
  · rw [← infMagnitude_le_roundUnbounded_iff hden]
    exact min_eq_right_iff
  · have hround : m = roundUnbounded num den := by
      simp only [m, roundUnits_eq_min] at hm ⊢
      omega
    have hdist : ∀ j < infMagnitude, distance j = (((magnitudeUnits j * den : Nat) : Int) - (num : Int)).natAbs :=
      fun j hj => by simp only [distance, units_packFloat false (hj.trans infMagnitude_lt)]
    rw [hdist m hm, hdist k hk, hround]
    rcases Nat.lt_trichotomy k (roundUnbounded num den) with hlt | rfl | hgt
    · obtain ⟨hmid, heven⟩ := le_two_mul_of_lt_roundUnbounded hden hlt
      have hmono := Nat.mul_lt_mul_of_pos_right (magnitudeUnits_strictMono hlt) hden
      rw [Nat.add_mul] at hmid heven
      omega
    · exact ⟨le_rfl, fun h => absurd rfl h⟩
    · obtain ⟨hmid, heven⟩ := two_mul_le_of_roundUnbounded_lt hden hgt
      have hmono := Nat.mul_lt_mul_of_pos_right (magnitudeUnits_strictMono hgt) hden
      rw [Nat.add_mul] at hmid heven
      omega

end Sys2Proof.Machine
end

section
/-! What the binary64 operations of 40_primitives R111 return: by classes of operands (NaN, infinite, finite), the exact
result of finite ones rounded once, and the NaN only as supplied. -/

namespace Sys2Proof.Machine

/-! ### Finite values -/

/-- A pattern that is neither an infinity nor a NaN. -/
def isFinite (a : F64) : Bool := magnitude a < infMagnitude

/-- The whole number with this sign and size. -/
def signedUnits (sign : Bool) (n : Nat) : Int := if sign then -(n : Int) else (n : Int)

/-- The exact value, in units of 2^-1074. -/
def floatValue (a : F64) : Int := signedUnits (signBit a) (units a)

theorem isFinite_iff {a : F64} : isFinite a = true ↔ magnitude a < infMagnitude := decide_eq_true_iff

theorem isNaN_iff {a : F64} : isNaN a = true ↔ infMagnitude < magnitude a := decide_eq_true_iff

theorem isInf_iff {a : F64} : isInf a = true ↔ magnitude a = infMagnitude := beq_iff_eq

theorem isNaN_eq_false_iff {a : F64} : isNaN a = false ↔ magnitude a ≤ infMagnitude := by
  rw [← Bool.not_eq_true, isNaN_iff, Nat.not_lt]

theorem isNaN_of_isFinite {a : F64} (ha : isFinite a = true) : isNaN a = false :=
  isNaN_eq_false_iff.mpr (isFinite_iff.mp ha).le

theorem isInf_of_isFinite {a : F64} (ha : isFinite a = true) : isInf a = false :=
  beq_eq_false_iff_ne.mpr (isFinite_iff.mp ha).ne

theorem isNaN_of_isInf {a : F64} (ha : isInf a = true) : isNaN a = false :=
  isNaN_eq_false_iff.mpr (isInf_iff.mp ha).le

theorem units_eq_zero_iff {a : F64} : units a = 0 ↔ magnitude a = 0 := magnitudeUnits_eq_zero_iff

theorem isNaN_packFloat (sign : Bool) {m : Nat} (hm : m ≤ infMagnitude) : isNaN (packFloat sign m) = false := by
  rw [isNaN_eq_false_iff, magnitude_packFloat sign (hm.trans_lt infMagnitude_lt)]
  exact hm

/-! ### The value with the other sign -/

theorem magnitude_fneg (a : F64) : magnitude (fneg a) = magnitude a := magnitude_packFloat _ (magnitude_lt a)

theorem signBit_fneg (a : F64) : signBit (fneg a) = !signBit a := signBit_packFloat _ (magnitude_lt a)

theorem isNaN_fneg (a : F64) : isNaN (fneg a) = isNaN a := by rw [isNaN, isNaN, magnitude_fneg]

theorem isInf_fneg (a : F64) : isInf (fneg a) = isInf a := by rw [isInf, isInf, magnitude_fneg]

theorem isFinite_fneg (a : F64) : isFinite (fneg a) = isFinite a := by rw [isFinite, isFinite, magnitude_fneg]

theorem floatValue_fneg (a : F64) : floatValue (fneg a) = -floatValue a := by
  rw [floatValue, floatValue, signBit_fneg, units_eq, units_eq, magnitude_fneg]
  cases signBit a <;> simp [signedUnits]

/-- Subtraction adds the value with the other sign, for a NaN too. -/
theorem fsub_eq_fadd_fneg (nan a b : F64) : fsub nan a b = fadd nan a (fneg b) := by
  unfold fsub
  split_ifs with h
  · rw [fadd, isNaN_fneg, if_pos h]
  · rfl

/-! ### NaN operands, and NaN results (R111, log 9) -/

section
variable {a b : F64} (hnan : (isNaN a || isNaN b) = true) (nan : F64)
include hnan

theorem fadd_of_nan : fadd nan a b = nan := if_pos hnan
theorem fsub_of_nan : fsub nan a b = nan := if_pos hnan
theorem fmul_of_nan : fmul nan a b = nan := if_pos hnan
theorem fdiv_of_nan : fdiv nan a b = nan := if_pos hnan

end

theorem fmul_eq_nan_or (nan a b : F64) : fmul nan a b = nan ∨ isNaN (fmul nan a b) = false := by
  unfold fmul
  split_ifs
  · exact .inl rfl
  · exact .inl rfl
  · exact .inr (isNaN_packFloat _ le_rfl)
  · exact .inr (isNaN_packFloat _ (roundUnits_le_infMagnitude _ _))

theorem fdiv_eq_nan_or (nan a b : F64) : fdiv nan a b = nan ∨ isNaN (fdiv nan a b) = false := by
  unfold fdiv
  split_ifs
  · exact .inl rfl
  · exact .inl rfl
  · exact .inr (isNaN_packFloat _ le_rfl)
  · exact .inr (isNaN_packFloat _ (Nat.zero_le _))
  · exact .inl rfl
  · exact .inr (isNaN_packFloat _ le_rfl)
  · exact .inr (isNaN_packFloat _ (roundUnits_le_infMagnitude _ _))

/-! ### Operations on finite values -/

/-- A whole number of units, rounded, with its sign; `zeroSign` is the sign of an exact zero. -/
def roundSigned (zeroSign : Bool) (v : Int) : F64 :=
  if v = 0 then packFloat zeroSign 0 else packFloat (decide (v < 0)) (roundUnits v.natAbs 1)

/-- The rounded product of two finite values. -/
def roundedProduct (a b : F64) : F64 := packFloat (signBit a != signBit b) (roundUnits (units a * units b) (2 ^ 1074))

/-- The rounded quotient of two finite values. -/
def roundedQuotient (a b : F64) : F64 :=
  packFloat (signBit a != signBit b) (roundUnits (units a * 2 ^ 1074) (units b))

theorem isNaN_roundSigned (zeroSign : Bool) (v : Int) : isNaN (roundSigned zeroSign v) = false := by
  unfold roundSigned
  split_ifs
  · exact isNaN_packFloat _ (Nat.zero_le _)
  · exact isNaN_packFloat _ (roundUnits_le_infMagnitude _ _)

theorem roundUnits_zero : roundUnits 0 1 = 0 := by decide +kernel

/-- A sum that keeps the sign of an operand is that sign and the rounded size. -/
theorem roundSigned_signedUnits {zeroSign sign : Bool} {n : Nat} (hzero : n = 0 → zeroSign = sign) :
    roundSigned zeroSign (signedUnits sign n) = packFloat sign (roundUnits n 1) := by
  rcases Nat.eq_zero_or_pos n with rfl | hn
  · rw [hzero rfl, roundUnits_zero]
    cases sign <;> rfl
  · cases sign
    · simp [roundSigned, signedUnits, hn.ne', Int.not_lt.mpr (Int.natCast_nonneg n)]
    · simp [roundSigned, signedUnits, hn, hn.ne']

theorem signedUnits_add_same (sign : Bool) (m n : Nat) :
    signedUnits sign m + signedUnits sign n = signedUnits sign (m + n) := by
  cases sign <;> simp only [signedUnits, Bool.false_eq_true, if_false, if_true] <;> omega

theorem signedUnits_not_add (sign : Bool) {m n : Nat} (h : n ≤ m) :
    signedUnits (!sign) n + signedUnits sign m = signedUnits sign (m - n) := by
  cases sign <;> simp [signedUnits] <;> omega

section
variable {a b : F64} (ha : isFinite a = true) (hb : isFinite b = true) (nan : F64)
include ha hb

theorem isNaN_or_of_isFinite : (isNaN a || isNaN b) = false := by
  rw [isNaN_of_isFinite ha, isNaN_of_isFinite hb]
  rfl

theorem fadd_of_finite : fadd nan a b = roundSigned (signBit a && signBit b) (floatValue a + floatValue b) := by
  rw [fadd, isNaN_or_of_isFinite ha hb, isInf_of_isFinite ha, isInf_of_isFinite hb]
  simp only [Bool.false_eq_true, if_false, floatValue, beq_iff_eq]
  split_ifs with hsign hba hab
  · rw [hsign, signedUnits_add_same, roundSigned_signedUnits fun _ => Bool.and_self _]
  · rw [Bool.eq_not.mpr (Ne.symm hsign), Int.add_comm, signedUnits_not_add _ hba.le,
      roundSigned_signedUnits fun h => by omega]
  · rw [Bool.eq_not.mpr hsign, signedUnits_not_add _ hab.le, roundSigned_signedUnits fun h => by omega]
  · rw [Bool.eq_not.mpr hsign, Nat.le_antisymm (Nat.not_lt.mp hba) (Nat.not_lt.mp hab), signedUnits_not_add _ le_rfl,
      Nat.sub_self]
    cases signBit b <;> rfl

theorem fsub_of_finite : fsub nan a b = roundSigned (signBit a && !signBit b) (floatValue a - floatValue b) := by
  rw [fsub_eq_fadd_fneg, fadd_of_finite ha (isFinite_fneg b ▸ hb), signBit_fneg, floatValue_fneg, Int.sub_eq_add_neg]

theorem fmul_of_finite : fmul nan a b = roundedProduct a b := by
  rw [fmul, isNaN_or_of_isFinite ha hb, isInf_of_isFinite ha, isInf_of_isFinite hb]
  rfl

theorem fdiv_of_finite (hzero : magnitude b ≠ 0) : fdiv nan a b = roundedQuotient a b := by
  rw [fdiv, isNaN_or_of_isFinite ha hb, isInf_of_isFinite ha, isInf_of_isFinite hb, beq_eq_false_iff_ne.mpr hzero]
  rfl

theorem fdiv_of_zero (hzero : magnitude b = 0) :
    fdiv nan a b = if magnitude a = 0 then nan else packFloat (signBit a != signBit b) infMagnitude := by
  rw [fdiv, isNaN_or_of_isFinite ha hb, isInf_of_isFinite ha, isInf_of_isFinite hb, beq_iff_eq.mpr hzero]
  simp

end

/-! ### Operations with an infinity -/

section
variable {a : F64} (ha : isInf a = true) {b : F64} (nan : F64)
include ha

theorem isNaN_or_of_isInf (hb : isNaN b = false) : (isNaN a || isNaN b) = false ∧ (isNaN b || isNaN a) = false := by
  rw [isNaN_of_isInf ha, hb]
  exact ⟨rfl, rfl⟩

theorem fadd_inf_finite (hb : isFinite b = true) : fadd nan a b = a ∧ fadd nan b a = a := by
  obtain ⟨hab, hba⟩ := isNaN_or_of_isInf ha (isNaN_of_isFinite hb)
  rw [fadd, fadd, hab, hba, ha, isInf_of_isFinite hb]
  exact ⟨rfl, rfl⟩

theorem fadd_inf_inf (hb : isInf b = true) : fadd nan a b = if signBit a = signBit b then a else nan := by
  rw [fadd, (isNaN_or_of_isInf ha (isNaN_of_isInf hb)).1, ha, hb]
  cases signBit a <;> cases signBit b <;> rfl

theorem fmul_inf (hb : isNaN b = false) :
    fmul nan a b = (if magnitude b = 0 then nan else packFloat (signBit a != signBit b) infMagnitude) ∧
    fmul nan b a = if magnitude b = 0 then nan else packFloat (signBit a != signBit b) infMagnitude := by
  obtain ⟨hab, hba⟩ := isNaN_or_of_isInf ha hb
  have hmag : magnitude a ≠ 0 := isInf_iff.mp ha ▸ by decide
  rw [fmul, fmul, hab, hba, ha]
  simp [hmag, Bool.xor_comm]

theorem fdiv_inf_finite (hb : isFinite b = true) : fdiv nan a b = packFloat (signBit a != signBit b) infMagnitude := by
  rw [fdiv, (isNaN_or_of_isInf ha (isNaN_of_isFinite hb)).1, ha, isInf_of_isFinite hb]
  rfl

theorem fdiv_finite_inf (hb : isFinite b = true) : fdiv nan b a = packFloat (signBit b != signBit a) 0 := by
  rw [fdiv, (isNaN_or_of_isInf ha (isNaN_of_isFinite hb)).2, ha, isInf_of_isFinite hb]
  rfl

theorem fdiv_inf_inf (hb : isInf b = true) : fdiv nan a b = nan := by
  rw [fdiv, (isNaN_or_of_isInf ha (isNaN_of_isInf hb)).1, ha, hb]
  rfl

end

/-! ### A NaN result is the one supplied (R111, log 9) -/

theorem class_cases (a : F64) : isNaN a = true ∨ isInf a = true ∨ isFinite a = true := by
  rw [isNaN_iff, isInf_iff, isFinite_iff]
  omega

theorem fadd_eq_nan_or (nan a b : F64) : fadd nan a b = nan ∨ isNaN (fadd nan a b) = false := by
  rcases class_cases a with ha | ha | ha
  · exact .inl (fadd_of_nan (by simp [ha]) nan)
  · rcases class_cases b with hb | hb | hb
    · exact .inl (fadd_of_nan (by simp [hb]) nan)
    · rw [fadd_inf_inf ha nan hb]
      split_ifs
      · exact .inr (isNaN_of_isInf ha)
      · exact .inl rfl
    · rw [(fadd_inf_finite ha nan hb).1]
      exact .inr (isNaN_of_isInf ha)
  · rcases class_cases b with hb | hb | hb
    · exact .inl (fadd_of_nan (by simp [hb]) nan)
    · rw [(fadd_inf_finite hb nan ha).2]
      exact .inr (isNaN_of_isInf hb)
    · rw [fadd_of_finite ha hb nan]
      exact .inr (isNaN_roundSigned _ _)

theorem fsub_eq_nan_or (nan a b : F64) : fsub nan a b = nan ∨ isNaN (fsub nan a b) = false := by
  rw [fsub_eq_fadd_fneg]
  exact fadd_eq_nan_or nan a (fneg b)

theorem quietNaN_toNat (f : BitVec 52) :
    (quietNaN f).toNat = f.toNat / 2 ^ 51 * 2 ^ 63 + 0xFFF * 2 ^ 51 + f.toNat % 2 ^ 51 := by
  rw [quietNaN, BitVec.toNat_append, BitVec.toNat_append, ← Nat.shiftLeft_add_eq_or_of_lt (BitVec.isLt _),
    ← Nat.shiftLeft_add_eq_or_of_lt (BitVec.isLt _)]
  have hf := f.isLt
  simp [BitVec.extractLsb'_toNat, Nat.shiftLeft_eq, Nat.shiftRight_eq_div_pow]
  omega

theorem isNaN_quietNaN (f : BitVec 52) : isNaN (quietNaN f) = true := by
  rw [isNaN_iff, infMagnitude, magnitude, quietNaN_toNat]
  have := f.isLt
  omega

/-- Settles O33: each operation by the class of its operands, and the quiet NaN by its bits. -/
theorem nanResultsAreTheFreeOnes : Obligations.NaNResultsAreTheFreeOnes := by
  refine ⟨fun nan a b r hr hnan => ?_, fun nan a b hab => ?_, fun cmd iter k op => ?_⟩
  · have hres : r = nan ∨ isNaN r = false := by
      simp only [List.mem_cons, List.not_mem_nil, or_false] at hr
      rcases hr with rfl | rfl | rfl | rfl
      · exact fadd_eq_nan_or nan a b
      · exact fsub_eq_nan_or nan a b
      · exact fmul_eq_nan_or nan a b
      · exact fdiv_eq_nan_or nan a b
    exact hres.resolve_right (by simp [hnan])
  · have hor : (isNaN a || isNaN b) = true := Bool.or_eq_true_iff.mpr hab
    exact ⟨fadd_of_nan hor nan, fsub_of_nan hor nan, fmul_of_nan hor nan, fdiv_of_nan hor nan⟩
  · rw [freeNaN]
    generalize Config.freeNaN cmd iter k op = f
    refine ⟨isNaN_quietNaN f, ?_, ?_, ?_⟩
    · rw [quietNaN, BitVec.getLsbD_append, BitVec.getLsbD_append]
      rfl
    · rw [quietNaN, BitVec.getLsbD_append, BitVec.getLsbD_append]
      simp
    · rw [quietNaN, BitVec.extractLsb'_append_eq_right]

/-! ### The ordered less-than (R14) -/

/-- A rising scale that starts at 0 keeps the order of signed numbers. -/
theorem signedUnits_lt_iff {f : Nat → Nat} (hf : StrictMono f) (h0 : f 0 = 0) (s t : Bool) (m n : Nat) :
    signedUnits s (f m) < signedUnits t (f n) ↔ signedUnits s m < signedUnits t n := by
  have hlt : f m < f n ↔ m < n := hf.lt_iff_lt
  have hgt : f n < f m ↔ n < m := hf.lt_iff_lt
  have hm : f m = f 0 ↔ m = 0 := hf.injective.eq_iff
  have hn : f n = f 0 ↔ n = 0 := hf.injective.eq_iff
  cases s <;> cases t <;> simp only [signedUnits, Bool.false_eq_true, if_false, if_true] <;> omega

theorem flt_of_nan {a b : F64} (h : isNaN a = true ∨ isNaN b = true) : flt a b = false := by
  rcases h with h | h <;> simp [flt, h]

theorem flt_of_not_nan {a b : F64} (ha : isNaN a = false) (hb : isNaN b = false) :
    flt a b = decide (signedUnits (signBit a) (magnitude a) < signedUnits (signBit b) (magnitude b)) := by
  rw [flt, ha, hb]
  rfl

theorem flt_of_finite {a b : F64} (ha : isFinite a = true) (hb : isFinite b = true) :
    flt a b = decide (floatValue a < floatValue b) := by
  rw [flt_of_not_nan (isNaN_of_isFinite ha) (isNaN_of_isFinite hb), floatValue, floatValue, units_eq, units_eq,
    decide_eq_decide, signedUnits_lt_iff magnitudeUnits_strictMono (magnitudeUnits_eq_zero_iff.mpr rfl)]

theorem flt_inf_finite {a b : F64} (ha : isInf a = true) (hb : isFinite b = true) :
    flt a b = signBit a ∧ flt b a = !signBit a := by
  have hNaNa := isNaN_of_isInf ha
  have hNaNb := isNaN_of_isFinite hb
  rw [flt_of_not_nan hNaNa hNaNb, flt_of_not_nan hNaNb hNaNa]
  rw [isInf_iff] at ha
  rw [isFinite_iff] at hb
  cases signBit a <;> cases signBit b <;> simp [signedUnits] <;> omega

theorem flt_inf_inf {a b : F64} (ha : isInf a = true) (hb : isInf b = true) : flt a b = (signBit a && !signBit b) := by
  rw [flt_of_not_nan (isNaN_of_isInf ha) (isNaN_of_isInf hb), isInf_iff.mp ha, isInf_iff.mp hb]
  cases signBit a <;> cases signBit b <;> decide

/-! ### The fields of a pattern, as the statement O60 writes them -/

theorem isFinite_iff_exponent (a : F64) : isFinite a = true ↔ a.toNat / 2 ^ 52 % 2 ^ 11 < 2047 := by
  rw [isFinite_iff, magnitude, infMagnitude]
  omega

theorem getLsbD_eq_signBit (a : F64) : a.getLsbD 63 = signBit a := BitVec.msb_eq_decide a

theorem units_eq_fields (a : F64) :
    units a = if a.toNat / 2 ^ 52 % 2 ^ 11 = 0 then a.toNat % 2 ^ 52
      else (2 ^ 52 + a.toNat % 2 ^ 52) * 2 ^ (a.toNat / 2 ^ 52 % 2 ^ 11 - 1) := by
  have hexp : magnitude a / 2 ^ 52 = a.toNat / 2 ^ 52 % 2 ^ 11 := by rw [magnitude]; omega
  have hfrac : magnitude a % 2 ^ 52 = a.toNat % 2 ^ 52 := by rw [magnitude]; omega
  rw [units, hexp, hfrac]

theorem packFloat_eq_ofNat (sign : Bool) (m : Nat) :
    packFloat sign m = BitVec.ofNat 64 (if sign then 2 ^ 63 + m else m) := by
  cases sign <;> simp [packFloat]

/-- Settles O60: the classes of the two operands, each operation by its rule for them. -/
theorem floatOperationsRoundTheExactResult : Obligations.FloatOperationsRoundTheExactResult := by
  intro nan a b finite infinite negative size value pack inf
  have hfin : ∀ x, finite x ↔ isFinite x = true := fun x => (isFinite_iff_exponent x).symm
  have hinf : ∀ x, infinite x ↔ isInf x = true := fun x => isInf_iff.symm
  have hneg : ∀ x, negative x = signBit x := getLsbD_eq_signBit
  have hsize : ∀ x, size x = units x := fun x => (units_eq_fields x).symm
  have hvalue : ∀ x, value x = floatValue x := fun x => by
    simp only [value, hneg, hsize, floatValue, signedUnits]
  have hpack : ∀ sign m, pack sign m = packFloat sign m := fun sign m => (packFloat_eq_ofNat sign m).symm
  have hinfMagnitude : inf = infMagnitude := rfl
  simp only [hfin, hinf, hneg, hsize, hvalue, hpack, hinfMagnitude, ne_eq, units_eq_zero_iff]
  refine ⟨fun ha hb => ?_, fun ha hb => ?_, fun ha hb => ?_, flt_of_nan⟩
  · rw [fadd_of_finite ha hb, fsub_of_finite ha hb, fmul_of_finite ha hb, flt_of_finite ha hb]
    refine ⟨fun h => if_neg h, fun h => if_pos h, fun h => if_neg h, fun h => if_pos h, rfl,
      fun h => fdiv_of_finite ha hb nan h, fun h h' => ?_, fun h h' => ?_, rfl⟩
    · rw [fdiv_of_zero ha hb nan h, if_neg h']
    · rw [fdiv_of_zero ha hb nan h, if_pos h']
  · have hmul := fmul_inf ha nan (isNaN_of_isFinite hb)
    refine ⟨(fadd_inf_finite ha nan hb).1, (fadd_inf_finite ha nan hb).2, ?_, ?_, fun h => ?_, fun h => ?_,
      fdiv_inf_finite ha nan hb, ?_, flt_inf_finite ha hb⟩
    · rw [fsub_eq_fadd_fneg, (fadd_inf_finite ha nan (isFinite_fneg b ▸ hb)).1]
    · rw [fsub_eq_fadd_fneg, (fadd_inf_finite (isInf_fneg a ▸ ha) nan hb).2, fneg, isInf_iff.mp ha]
    · rwa [if_neg h] at hmul
    · rwa [if_pos h] at hmul
    · rw [fdiv_finite_inf ha nan hb, bne_comm]
  · refine ⟨fadd_inf_inf ha nan hb, ?_, ?_, fdiv_inf_inf ha nan hb, flt_inf_inf ha hb⟩
    · rw [fsub_eq_fadd_fneg, fadd_inf_inf ha nan (isInf_fneg b ▸ hb), signBit_fneg]
      cases signBit a <;> cases signBit b <;> rfl
    · rw [(fmul_inf ha nan (isNaN_of_isInf hb)).1, if_neg (isInf_iff.mp hb ▸ by decide)]

end Sys2Proof.Machine
end

section
/-! The integer primitives of 40_primitives R104, R105, R107 .. R109 in whole numbers, and the tiers of
R100 and R101. -/

namespace Sys2Proof.Machine

/-! ### Words as whole numbers (R12) -/

theorem toNat_complement (x : Word) : (~~~x).toNat = 2 ^ 32 - 1 - x.toNat := BitVec.toNat_not

/-- The exact product fits the 64 bits. -/
theorem toNat_mul64 (a b : Word) : (mul64 a b).toNat = a.toNat * b.toNat := by
  have hbound : a.toNat * b.toNat < 2 ^ 32 * 2 ^ 32 := Nat.mul_lt_mul'' a.isLt b.isLt
  rw [mul64, BitVec.toNat_mul, BitVec.toNat_setWidth_of_le (by norm_num), BitVec.toNat_setWidth_of_le (by norm_num),
    Nat.mod_eq_of_lt (by omega)]

theorem toNat_lo32 (p : DWord) : (lo32 p).toNat = p.toNat % 2 ^ 32 := by
  simp [lo32, BitVec.extractLsb'_toNat]

theorem toNat_hi32 (p : DWord) : (hi32 p).toNat = p.toNat / 2 ^ 32 := by
  have hp := p.isLt
  rw [hi32, BitVec.extractLsb'_toNat, Nat.shiftRight_eq_div_pow, Nat.mod_eq_of_lt (by omega)]

/-- A word whose top bit is clear is doubled by a rotation of one bit. -/
theorem toNat_rotateLeft_one {x : Word} (hx : x.toNat < 2 ^ 31) : (x.rotateLeft 1).toNat = 2 * x.toNat := by
  have hout : x.toNat / 2 ^ 31 = 0 := Nat.div_eq_of_lt hx
  rw [BitVec.toNat_rotateLeft, Nat.shiftLeft_eq, Nat.shiftRight_eq_div_pow]
  change x.toNat * 2 ^ 1 % 2 ^ 32 ||| x.toNat / 2 ^ 31 = _
  rw [hout, Nat.or_zero]
  omega

/-! ### ITENT (R104) -/

/-- The operand that ITENT doubles: the word or its complement, whichever is below 2^31. -/
def tentFold (x : Word) : Nat := if x.toNat < 2 ^ 31 then x.toNat else 2 ^ 32 - 1 - x.toNat

theorem tentFold_lt (x : Word) : tentFold x < 2 ^ 31 := by
  have hx := x.isLt
  rw [tentFold]
  split <;> omega

theorem toNat_itent (x : Word) : (itent x).toNat = (2 * tentFold x + 0x9E3779B9) % 2 ^ 32 := by
  rw [itent, tentFold, BitVec.toNat_add]
  split_ifs with hx
  · rw [toNat_rotateLeft_one hx]
    rfl
  · have hx' := x.isLt
    rw [toNat_rotateLeft_one (by rw [toNat_complement]; omega), toNat_complement]
    rfl

theorem toNat_itent_odd (x : Word) : (itent x).toNat % 2 = 1 := by
  rw [toNat_itent]
  omega

theorem tentFold_eq_iff (x y : Word) : tentFold x = tentFold y ↔ x = y ∨ x = ~~~y := by
  have hx := x.isLt
  have hy := y.isLt
  rw [← BitVec.toNat_inj, ← BitVec.toNat_inj (y := ~~~y), toNat_complement, tentFold, tentFold]
  split_ifs <;> omega

theorem itent_eq_iff (x y : Word) : itent x = itent y ↔ tentFold x = tentFold y := by
  have hx := tentFold_lt x
  have hy := tentFold_lt y
  rw [← BitVec.toNat_inj, toNat_itent, toNat_itent]
  omega

/-- Settles O26: ITENT doubles the folded operand, which is below 2^31, and adds an odd constant. -/
theorem tentArithmetic : Obligations.TentArithmetic := by
  refine ⟨fun x => ?_, fun x => ⟨toNat_itent_odd x, fun h => ?_⟩, fun x y => ?_, ?_⟩
  · rw [toNat_itent, tentFold]
    split_ifs <;> rfl
  · have hodd := toNat_itent_odd x
    simp [h] at hodd
  · rw [itent_eq_iff, tentFold_eq_iff]
  · decide

/-! ### ILOG (R105) -/

theorem complement_product_lt (x : Word) : x.toNat * (2 ^ 32 - 1 - x.toNat) < 2 ^ 62 := by
  have hx := x.isLt
  obtain ⟨c, hc⟩ : ∃ c, x.toNat + c = 2 ^ 32 - 1 := ⟨2 ^ 32 - 1 - x.toNat, by omega⟩
  have hcomp : 2 ^ 32 - 1 - x.toNat = c := by omega
  have hsq := four_mul_le_sq_add x.toNat c
  rw [hc, Nat.mul_assoc] at hsq
  rw [hcomp]
  omega

theorem toNat_ilog (x : Word) :
    (ilog x).toNat = (x.toNat * (2 ^ 32 - 1 - x.toNat) / 2 ^ 30 + 0x61C88647) % 2 ^ 32 := by
  have hbound := complement_product_lt x
  rw [ilog, BitVec.toNat_add, toNat_lo32, BitVec.toNat_ushiftRight, toNat_mul64, toNat_complement,
    Nat.shiftRight_eq_div_pow, Nat.mod_eq_of_lt (a := _ / 2 ^ 30) (by omega)]
  rfl

theorem ilog_complement (x : Word) : ilog (~~~x) = ilog x := by
  rw [ilog, ilog, BitVec.not_not, mul64, mul64, BitVec.mul_comm]

/-- Settles O27: the product of a word and its complement, by the whole-number meaning of its parts. -/
theorem logisticArithmetic : Obligations.LogisticArithmetic := by
  refine ⟨fun x => ⟨complement_product_lt x, toNat_ilog x, (ilog_complement x).symm⟩, ?_⟩
  decide

/-! ### IHENON (R107) -/

/-- The whole number that IHENON subtracts: the two halves of the exact square, XORed. -/
theorem toNat_lo32_xor_hi32 (p : DWord) : (lo32 p ^^^ hi32 p).toNat = (p.toNat % 2 ^ 32) ^^^ (p.toNat / 2 ^ 32) := by
  rw [BitVec.toNat_xor, toNat_lo32, toNat_hi32]

theorem toNat_add_sub_word (a b c : Word) :
    ((a + b - c).toNat : Int) = ((a.toNat : Int) + b.toNat - c.toNat) % 2 ^ 32 := by
  have hc := c.isLt
  rw [BitVec.toNat_sub, BitVec.toNat_add]
  omega

/-- Settles O30: the two halves of the exact square, and a difference modulo 2^32. -/
theorem henonArithmetic : Obligations.HenonArithmetic := by
  refine ⟨fun s => ⟨?_, rfl⟩, by decide⟩
  rw [← toNat_mul64, ← toNat_lo32_xor_hi32]
  exact toNat_add_sub_word s.y 0x6D2B79F5 (lo32 (mul64 s.x s.x) ^^^ hi32 (mul64 s.x s.x))

/-! ### ILORENZ and ICHEN (R108, R109) -/

theorem toNat_sub_word (a b : Word) : (a - b).toNat = (a.toNat + 2 ^ 32 - b.toNat) % 2 ^ 32 := by
  have hb := b.isLt
  rw [BitVec.toNat_sub]
  omega

theorem toNat_shiftRight_word (a : Word) (n : Nat) : (a >>> n).toNat = a.toNat / 2 ^ n := by
  rw [BitVec.toNat_ushiftRight, Nat.shiftRight_eq_div_pow]

theorem toNat_shiftLeft_word (a : Word) (n : Nat) : (a <<< n).toNat = 2 ^ n * a.toNat % 2 ^ 32 := by
  rw [BitVec.toNat_shiftLeft, Nat.shiftLeft_eq, Nat.mul_comm]

/-- A word plus its shift by one bit is three times the word. -/
theorem toNat_add_double (a : Word) : (a + (a <<< 1)).toNat = 3 * a.toNat % 2 ^ 32 := by
  rw [BitVec.toNat_add, toNat_shiftLeft_word]
  omega

theorem ilorenz_components (s : Tri Word) :
    (ilorenz s).x.toNat = (s.x.toNat + (s.y.toNat + 2 ^ 32 - s.x.toNat) % 2 ^ 32 / 4) % 2 ^ 32 ∧
    (ilorenz s).y.toNat = (s.y.toNat + ((s.x.toNat ^^^ (s.y.toNat / 8)) + 2 ^ 32 - s.z.toNat)) % 2 ^ 32 ∧
    (ilorenz s).z.toNat =
      (s.z.toNat + ((s.x.toNat + s.y.toNat) % 2 ^ 32 ^^^ (2 * s.z.toNat % 2 ^ 32))) % 2 ^ 32 := by
  have hdx : (ilorenz s).x.toNat = _ := BitVec.toNat_add s.x ((s.y - s.x) >>> 2)
  have hdy : (ilorenz s).y.toNat = _ := BitVec.toNat_add s.y ((s.x ^^^ (s.y >>> 3)) - s.z)
  have hdz : (ilorenz s).z.toNat = _ := BitVec.toNat_add s.z ((s.x + s.y) ^^^ (s.z <<< 1))
  rw [hdx, hdy, hdz, toNat_shiftRight_word, toNat_sub_word, toNat_sub_word, BitVec.toNat_xor, BitVec.toNat_xor,
    toNat_shiftRight_word, toNat_shiftLeft_word, BitVec.toNat_add, Nat.add_mod_mod]
  exact ⟨rfl, rfl, rfl⟩

theorem ichen_components (s : Tri Word) :
    (ichen s).x.toNat = (s.x.toNat + 3 * (s.y.toNat + 2 ^ 32 - s.x.toNat)) % 2 ^ 32 ∧
    (ichen s).y.toNat = (s.y.toNat + ((s.x.toNat ^^^ (4 * s.y.toNat % 2 ^ 32)) + s.z.toNat / 2)) % 2 ^ 32 ∧
    (ichen s).z.toNat =
      (s.z.toNat + ((s.x.toNat + s.y.toNat) % 2 ^ 32 ^^^ (3 * s.z.toNat % 2 ^ 32))) % 2 ^ 32 := by
  have hdx : (ichen s).x.toNat = _ := BitVec.toNat_add s.x ((s.y - s.x) + ((s.y - s.x) <<< 1))
  have hdy : (ichen s).y.toNat = _ := BitVec.toNat_add s.y ((s.x ^^^ (s.y <<< 2)) + (s.z >>> 1))
  have hdz : (ichen s).z.toNat = _ := BitVec.toNat_add s.z ((s.x + s.y) ^^^ (s.z + (s.z <<< 1)))
  rw [hdx, hdy, hdz, toNat_add_double, toNat_sub_word, BitVec.toNat_add, BitVec.toNat_xor, toNat_shiftLeft_word,
    toNat_shiftRight_word, BitVec.toNat_xor, BitVec.toNat_add, toNat_add_double]
  refine ⟨?_, Nat.add_mod_mod _ _ _, rfl⟩
  omega

/-- Settles O31: each component by its whole-number form; the zero lane is a fixed point of one transition. -/
theorem lorenzAndChenArithmetic : Obligations.LorenzAndChenArithmetic := by
  refine ⟨fun s => ?_, fun n => ⟨?_, ?_⟩, by decide⟩
  · obtain ⟨hx, hy, hz⟩ := ilorenz_components s
    exact ⟨hx, hy, hz, ichen_components s⟩
  · exact Function.iterate_fixed (by decide) n
  · exact Function.iterate_fixed (by decide) n

/-! ### Tiers (R100, R101) -/

/-- An explicit code resolves to its own tier, on every part that has it (R207). -/
theorem explicit_resolve {t : TierReq} (hauto : t ≠ .auto) :
    ∃ T₀, ∀ (p : Params) (T : Tier), resolve p t = some T → T₀ = T := by
  cases t with
  | auto => exact absurd rfl hauto
  | scalar => exact ⟨.scalar, fun p T h => Option.some.inj h⟩
  | w256 => exact ⟨.w256, fun p T h => Option.some.inj (Option.ite_none_right_eq_some.mp h).2⟩
  | w512 => exact ⟨.w512, fun p T h => Option.some.inj (Option.ite_none_right_eq_some.mp h).2⟩

section
variable {t : TierReq} {s : State} (hT : resolve s.params t = none)
include hT

theorem ksgen_unresolved (p : IntPrim) : ksgen p t s = raiseError .invalidArgument s := by
  rcases ksgen_cases p t s with ⟨-, h⟩ | ⟨T, h, -⟩
  · exact h
  · cases hT.symm.trans h

theorem stepInt_unresolved (p : IntPrim) : stepInt p t s = raiseError .invalidArgument s := by
  rcases stepInt_cases p t s with ⟨-, h⟩ | ⟨T, h, -⟩
  · exact h
  · cases hT.symm.trans h

theorem stepFloat_unresolved (p : FloatPrim) : stepFloat p t s = raiseError .invalidArgument s := by
  rcases stepFloat_cases p t s with ⟨-, h⟩ | ⟨T, h, -⟩
  · exact h
  · cases hT.symm.trans h

theorem derive_unresolved (p : IntPrim) (hkey : 32 ≤ s.keylen.toNat) : derive p t s = raiseError .invalidArgument s := by
  rcases derive_cases p t s with ⟨h, -⟩ | ⟨-, -, h⟩ | ⟨T, -, h, -⟩
  · omega
  · exact h
  · cases hT.symm.trans h

end

/-- Settles O13: the codes by cases, and each family of commands at the first check that its missing tier fails. -/
theorem tierResolution : Obligations.TierResolution := by
  refine ⟨by decide, fun p q t T U hauto hp hq => ?_, fun p => ⟨rfl, rfl, ?_, ?_, ?_, ?_⟩, fun t s hT => ?_⟩
  · obtain ⟨T₀, hT₀⟩ := explicit_resolve hauto
    exact (hT₀ p T hp).symm.trans (hT₀ q U hq)
  · exact fun h => if_pos h
  · exact fun h => if_neg (by simp [h])
  · exact fun h => if_pos h
  · exact fun h => if_neg (by simp [h])
  · intro refused
    have hrefused : raiseError .invalidArgument s = refused := rfl
    refine ⟨fun p i hi => ?_, fun p => ?_, fun hkey p i hi => ?_⟩
    · simp only [List.mem_cons, List.not_mem_nil, or_false] at hi
      rcases hi with rfl | rfl
      · rw [exec_ksgenOf, ksgen_unresolved hT, hrefused]
      · rw [exec_stepIntOf, stepInt_unresolved hT, hrefused]
    · rw [exec_stepFloatOf, stepFloat_unresolved hT, hrefused]
    · simp only [List.mem_cons, List.not_mem_nil, or_false] at hi
      rcases hi with rfl | rfl | rfl
      · rw [exec_deriveOf, derive_unresolved hT p hkey, hrefused]
      · rw [exec_processOf, process_invalidArgument hkey (.inl hT), hrefused]
      · rw [exec_sapplyOf, sapply_invalidArgument hkey (.inl hT), hrefused]

end Sys2Proof.Machine
end

section
/-! ISINE (40_primitives R106), whose ten operations stay among finite values, and the corner cases of the float
primitives (R112 .. R118). -/

namespace Sys2Proof.Machine

/-! ### Values between +0 and a bound -/

/-- `a` is one of the values from +0 up to `c`. -/
def BetweenZeroAnd (c a : F64) : Prop := signBit a = false ∧ magnitude a ≤ magnitude c

/-- 64.0, the bound of the numerator and of the quotient of ISINE. -/
def fSixtyFour : F64 := 0x4050000000000000

theorem BetweenZeroAnd.self {c : F64} (hc : signBit c = false) : BetweenZeroAnd c c := ⟨hc, le_rfl⟩

theorem BetweenZeroAnd.isFinite {c a : F64} (h : BetweenZeroAnd c a) (hc : isFinite c = true) : isFinite a = true :=
  isFinite_iff.mpr (h.2.trans_lt (isFinite_iff.mp hc))

theorem BetweenZeroAnd.units_le {c a : F64} (h : BetweenZeroAnd c a) : units a ≤ units c :=
  magnitudeUnits_strictMono.monotone h.2

theorem BetweenZeroAnd.floatValue_eq {c a : F64} (h : BetweenZeroAnd c a) : floatValue a = units a := by
  rw [floatValue, h.1]
  rfl

theorem betweenZeroAnd_roundUnits {num den : Nat} {c : F64} (hden : 0 < den) (h : num ≤ units c * den) :
    BetweenZeroAnd c (packFloat false (roundUnits num den)) :=
  ⟨signBit_packFloat _ (roundUnits_lt num den), by
    rw [magnitude_packFloat _ (roundUnits_lt num den)]
    exact roundUnits_le_of_le hden h⟩

theorem units_fTwo32 : units fTwo32 = 2 ^ 32 * 2 ^ 1074 := by decide +kernel

theorem betweenZeroAnd_ofWord (x : Word) : BetweenZeroAnd fTwo32 (ofWord x) := by
  refine betweenZeroAnd_roundUnits one_pos ?_
  rw [units_fTwo32, Nat.mul_one]
  exact Nat.mul_le_mul_right _ x.isLt.le

/-- A product of two bounded values is a value, whatever NaN is supplied, and is bounded by the bounds' product. -/
theorem exists_fmul {c d a b : F64} (e : F64) (ha : BetweenZeroAnd c a) (hb : BetweenZeroAnd d b)
    (hc : isFinite c = true) (hd : isFinite d = true) (hcd : units c * units d ≤ units e * 2 ^ 1074) :
    ∃ v, BetweenZeroAnd e v ∧ ∀ nan, fmul nan a b = v := by
  refine ⟨_, ?_, fmul_of_finite (ha.isFinite hc) (hb.isFinite hd)⟩
  rw [roundedProduct, ha.1, hb.1]
  exact betweenZeroAnd_roundUnits (by positivity) ((Nat.mul_le_mul ha.units_le hb.units_le).trans hcd)

/-- The difference of a constant and a value that does not pass it is a value, whatever NaN is supplied, between +0 and
the constant, and not below a magnitude that the exact difference reaches. -/
theorem exists_fsub {c d a : F64} (hc : BetweenZeroAnd c c) (ha : BetweenZeroAnd d a) (hfc : isFinite c = true)
    (hfd : isFinite d = true) {j : Nat} (hj : j ≤ infMagnitude) (hdc : magnitudeUnits j + units d ≤ units c) :
    ∃ v, BetweenZeroAnd c v ∧ j ≤ magnitude v ∧ ∀ nan, fsub nan c a = v := by
  have hle := ha.units_le
  have hdiff : floatValue c - floatValue a = signedUnits false (units c - units a) := by
    rw [hc.floatValue_eq, ha.floatValue_eq, signedUnits, if_neg Bool.false_ne_true]
    omega
  refine ⟨packFloat false (roundUnits (units c - units a) 1), betweenZeroAnd_roundUnits one_pos (by omega), ?_,
    fun nan => ?_⟩
  · rw [magnitude_packFloat _ (roundUnits_lt _ _)]
    exact le_roundUnits_of_le one_pos hj (by omega)
  · rw [fsub_of_finite hfc (ha.isFinite hfd), hdiff, hc.1, roundSigned_signedUnits fun _ => Bool.false_and _]

/-- A quotient by a value from 1 on is a value, whatever NaN is supplied, and no greater than the bound. -/
theorem exists_fdiv {c d a b : F64} (ha : BetweenZeroAnd c a) (hb : BetweenZeroAnd d b) (hc : isFinite c = true)
    (hd : isFinite d = true) (hone : magnitude fOne ≤ magnitude b) :
    ∃ v, BetweenZeroAnd c v ∧ ∀ nan, fdiv nan a b = v := by
  have hunits : 2 ^ 1074 ≤ units b := by
    have hfOne : units fOne = 2 ^ 1074 := by decide +kernel
    exact hfOne.symm.trans_le (magnitudeUnits_strictMono.monotone hone)
  have hzero : magnitude b ≠ 0 := fun h => by
    rw [h] at hone
    exact absurd hone (by decide)
  refine ⟨_, ?_, fun nan => fdiv_of_finite (ha.isFinite hc) (hb.isFinite hd) nan hzero⟩
  rw [roundedQuotient, ha.1, hb.1]
  exact betweenZeroAnd_roundUnits (Nat.lt_of_lt_of_le (by positivity) hunits)
    (Nat.mul_le_mul ha.units_le hunits)

/-! ### ISINE (R106) -/

/-- With v = x · 2^-32 and a = 1 - v in 0 .. 1, the numerator is at most 64 and the denominator at least 1. -/
theorem isineWith_supply (nan nan' : Nat → F64) (x : Word) : isineWith nan x = isineWith nan' x := by
  obtain ⟨v, hv, ev⟩ := exists_fmul fOne (betweenZeroAnd_ofWord x) (.self (c := fTwoMinus32) (by decide)) (by decide)
    (by decide) (by decide +kernel)
  obtain ⟨a, ha, -, ea⟩ := exists_fsub (.self (c := fOne) (by decide)) hv (by decide) (by decide) (j := 0) (by decide)
    (by decide +kernel)
  obtain ⟨m, hm, em⟩ := exists_fmul fSixteen (.self (c := fSixteen) (by decide)) hv (by decide) (by decide)
    (by decide +kernel)
  obtain ⟨n, hn, en⟩ := exists_fmul fSixteen hm ha (by decide) (by decide) (by decide +kernel)
  obtain ⟨num, hnum, enum⟩ := exists_fmul fSixtyFour (.self (c := fFour) (by decide)) hn (by decide) (by decide)
    (by decide +kernel)
  obtain ⟨p, hp, ep⟩ := exists_fmul fFour (.self (c := fFour) (by decide)) hv (by decide) (by decide)
    (by decide +kernel)
  obtain ⟨r, hr, er⟩ := exists_fmul fFour hp ha (by decide) (by decide) (by decide +kernel)
  obtain ⟨den, hden, hone, eden⟩ := exists_fsub (.self (c := fFive) (by decide)) hr (by decide) (by decide)
    (j := magnitude fOne) (by decide) (by decide +kernel)
  obtain ⟨s, hs, es⟩ := exists_fdiv hnum hden (by decide) (by decide) hone
  have ew := fmul_of_finite (hs.isFinite (by decide)) (b := fTwo32) (by decide)
  simp only [isineWith, ev, ea, em, en, enum, ep, er, eden, es, ew]

/-- Settles O28: every operand of the ten operations is finite, and the divisor is not 0. -/
theorem sineMeetsNoNaN : Obligations.SineMeetsNoNaN := fun nan x => isineWith_supply nan _ x

/-- Settles O29: the values do not rest on the NaNs left open, so any supply gives them. -/
theorem sineValues : Obligations.SineValues := by
  have hsupply : ∀ x, isine x = isineWith (fun _ => 0) x := fun x => (sineMeetsNoNaN _ x).symm
  unfold Obligations.SineValues
  simp only [hsupply]
  decide +kernel

/-! ### The corner cases and examples of the float primitives (R112 .. R118)

Every operand of theirs is finite, so each operation is its exact result rounded, and no NaN is met. -/

theorem flog_corners (nan : Nat → F64) :
    flog nan 0 = 0 ∧ flog nan 0x3FF0000000000000 = 0 ∧ flog nan 0x3FE0000000000000 = 0x3FEFEB851EB851EC ∧
    flog nan 0x3FD0000000000000 = 0x3FE7F0A3D70A3D71 := by
  simp (disch := decide +kernel) only [flog, fmul_of_finite, fsub_of_finite]
  decide +kernel

theorem ftent_of_lt {nan : Nat → F64} {x : F64} (hx : flt x fHalf = true) : ftent nan x = fmul (nan 0) tentMu x :=
  if_pos hx

theorem ftent_of_not_lt {nan : Nat → F64} {x : F64} (hx : flt x fHalf = false) :
    ftent nan x = fmul (nan 1) tentMu (fsub (nan 0) fOne x) :=
  if_neg (by simp [hx])

theorem ftent_corners (nan : Nat → F64) :
    ftent nan 0x3FF0000000000000 = 0 ∧ ftent nan 0x3FE0000000000000 = 0x3FEFFF972474538F ∧
    ftent nan 0x3FB999999999999A = 0x3FC99945B6C3760C := by
  rw [ftent_of_not_lt (by decide +kernel), ftent_of_not_lt (by decide +kernel), ftent_of_lt (by decide +kernel)]
  simp (disch := decide +kernel) only [fmul_of_finite, fsub_of_finite]
  decide +kernel

theorem florenz_corners (nan : Nat → F64) :
    florenz nan ⟨0, 0, 0⟩ = ⟨0, 0, 0⟩ ∧
    florenz nan ⟨0x3FF0000000000000, 0x4000000000000000, 0x4008000000000000⟩ =
      ⟨0x3FF199999999999A, 0x4001D70A3D70A3D7, 0x4007851EB851EB85⟩ := by
  simp (disch := decide +kernel) only [florenz, fmul_of_finite, fsub_of_finite, fadd_of_finite]
  decide +kernel

theorem fsineWide_corners (p : Params) (nan : Nat → F64) (hr : p.sineR = 0x3FEFAE147AE147AE) :
    fsineWide p nan 0 = 0 ∧ fsineWide p nan 0x3FE0000000000000 = p.sineR ∧
    fsineWide p nan 0x3FD0000000000000 = 0x3FE65CC3298FF65C := by
  simp (disch := decide +kernel) only [fsineWide, hr, fmul_of_finite, fsub_of_finite, fdiv_of_finite]
  decide +kernel

theorem fhenon_corners (p : Params) (nan : Nat → F64) (ha : p.henonA = 0x3FF6666666666666)
    (hb : p.henonB = 0x3FD3333333333333) (z : F64) :
    fhenon p nan ⟨0, 0, z⟩ = ⟨0x3FF0000000000000, 0, z⟩ ∧
    fhenon p nan ⟨0x3FB999999999999A, 0x3FC999999999999A, z⟩ = ⟨0x3FF2F9DB22D0E560, 0x3F9EB851EB851EB8, z⟩ := by
  simp (disch := decide +kernel) only [fhenon, ha, hb, fmul_of_finite, fsub_of_finite, fadd_of_finite, Tri.mk.injEq,
    and_true]
  decide +kernel

theorem fchen_corners (p : Params) (nan : Nat → F64) (ha : p.chenA = 0x4041800000000000)
    (hb : p.chenB = 0x4008000000000000) (hc : p.chenC = 0x403C000000000000) (hdt : p.chenDt = 0x3F50624DD2F1A9FC) :
    fchen p nan ⟨0, 0, 0⟩ = ⟨0, 0, 0⟩ ∧
    fchen p nan ⟨0x3FF0000000000000, 0x4000000000000000, 0x4008000000000000⟩ =
      ⟨0x3FF08F5C28F5C28F, 0x40005E353F7CED91, 0x4007F1A9FBE76C8B⟩ := by
  simp (disch := decide +kernel) only [fchen, ha, hb, hc, hdt, fmul_of_finite, fsub_of_finite, fadd_of_finite]
  decide +kernel

/-- Settles O34: each primitive's corners, and R114's formula by its definition. -/
theorem floatCorners : Obligations.FloatCorners := by
  intro nan
  obtain ⟨hlog0, hlog1, hlogHalf, hlogQuarter⟩ := flog_corners nan
  obtain ⟨htent1, htentHalf, htentTenth⟩ := ftent_corners nan
  obtain ⟨hlorenz0, hlorenz⟩ := florenz_corners nan
  exact ⟨hlog0, hlog1, hlogHalf, hlogQuarter, htent1, htentHalf, htentTenth, hlorenz0, hlorenz, fun _ _ => rfl,
    fun p => fsineWide_corners p nan, fun p => fhenon_corners p nan, fun p => fchen_corners p nan⟩

end Sys2Proof.Machine
end

section
/-! The state-transition engine (41_engine): the lanes after CNT transitions for the STEP commands of R141 .. R153, and
the commands without a tier (R140, R163, R234, R235).

A STEP iterates a transition of the whole lane state file. Reading one lane intertwines that transition with the
primitive's own, so it intertwines their iterates; reading a vector past the dimensionality intertwines it with the
identity. -/

namespace Sys2Proof.Machine

/-! ### Repetition seen through a view -/

theorem repeatFrom_semiconj {α β : Type} (view : α → β) {F : Nat → α → α} {G : Nat → β → β}
    (h : ∀ j a, view (F j a) = G j (view a)) (n j : Nat) (a : α) :
    view (repeatFrom F n j a) = repeatFrom G n j (view a) := by
  induction n generalizing j a with
  | zero => rfl
  | succ n ih => rw [repeatFrom, repeatFrom, ih, h]

theorem repeatFrom_fixed {α β : Type} (view : α → β) {F : Nat → α → α} (h : ∀ j a, view (F j a) = view a)
    (n j : Nat) (a : α) : view (repeatFrom F n j a) = view a := by
  induction n generalizing j a with
  | zero => rfl
  | succ n ih => rw [repeatFrom, ih, h]

theorem iterate_fixed_view {α β : Type} (view : α → β) {F : α → α} (h : ∀ a, view (F a) = view a) (n : Nat)
    (a : α) : view (F^[n] a) = view a := by
  have hid : Function.Semiconj view F id := h
  rw [hid.iterate_right n a, Function.iterate_id, id]

/-! ### One transition of the lane state file (40_primitives R102) -/

/-- A transition hands on the components past its dimensionality, so storing the first D alone stores it whole (R44). -/
theorem intTransition_firstComponents (p : IntPrim) (a : Tri Word) :
    (⟨(intTransition p a).x, if 2 ≤ intDim p then (intTransition p a).y else a.y,
      if 3 ≤ intDim p then (intTransition p a).z else a.z⟩ : Tri Word) = intTransition p a := by
  cases p <;> rfl

theorem floatTransition_firstComponents (q : Params) (T : Tier) (nan : Nat → F64) (p : FloatPrim) (a : Tri F64) :
    (⟨(floatTransition q T nan p a).x, if 2 ≤ floatDim p then (floatTransition q T nan p a).y else a.y,
      if 3 ≤ floatDim p then (floatTransition q T nan p a).z else a.z⟩ : Tri F64) =
      floatTransition q T nan p a := by
  cases p <;> rfl

theorem laneAt_stepLanes (p : IntPrim) (L : Nat) (W : LaneFile) {k : Nat} (hk : k < 16) :
    laneAt (stepLanes p L W) k = if k < L then intTransition p (laneAt W k) else laneAt W k := by
  rw [stepLanes, laneAt_storeLanes _ _ _ _ hk]
  exact congrArg (fun a => if k < L then a else laneAt W k) (intTransition_firstComponents p (laneAt W k))

/-- f64 lane k after the active f64 lanes are stored, in the first D vectors (R44, R102). -/
theorem floatLaneAt_storeFloatLanes (D L : Nat) (f : Nat → Tri F64) (W : LaneFile) {k : Nat} (hk : k < 8) :
    floatLaneAt (storeFloatLanes D L f W) k =
      if k < L then
        ⟨(f k).x, if 2 ≤ D then (f k).y else floatLane W.y k, if 3 ≤ D then (f k).z else floatLane W.z k⟩
      else floatLaneAt W k := by
  by_cases hL : k < L <;>
    simp [floatLaneAt, storeFloatLanes, apply_ite (floatLane · k), floatLane_mergeFloatLanes _ _ _ hk, hL]

theorem floatLaneAt_stepFloatLanes (q : Params) (p : FloatPrim) (T : Tier) (cmd iter : Nat) (W : LaneFile) {k : Nat}
    (hk : k < 8) :
    floatLaneAt (stepFloatLanes q p T cmd iter W) k =
      if k < lanesF T then floatTransition q T (freeNaN cmd iter k) p (floatLaneAt W k) else floatLaneAt W k := by
  rw [stepFloatLanes, floatLaneAt_storeFloatLanes _ _ _ _ hk]
  exact congrArg (fun a => if k < lanesF T then a else floatLaneAt W k)
    (floatTransition_firstComponents q T (freeNaN cmd iter k) p (floatLaneAt W k))

/-! ### CNT transitions of the lane state file (41_engine R141) -/

/-- Each active lane is stepped by itself, whatever the other lanes hold (R102). -/
theorem laneAt_iterate_stepLanes (p : IntPrim) (L n : Nat) (W : LaneFile) {k : Nat} (hk : k < 16) :
    laneAt ((stepLanes p L)^[n] W) k = if k < L then (intTransition p)^[n] (laneAt W k) else laneAt W k := by
  by_cases hL : k < L
  · have hstep : Function.Semiconj (laneAt · k) (stepLanes p L) (intTransition p) := fun W => by
      simp only [laneAt_stepLanes p L W hk, if_pos hL]
    rw [if_pos hL]
    exact hstep.iterate_right n W
  · rw [if_neg hL]
    exact iterate_fixed_view (laneAt · k) (fun W => by simp only [laneAt_stepLanes p L W hk, if_neg hL]) n W

theorem floatLaneAt_repeatFrom_stepFloatLanes (q : Params) (p : FloatPrim) (T : Tier) (cmd n : Nat) (W : LaneFile)
    {k : Nat} (hk : k < 8) :
    floatLaneAt (repeatFrom (stepFloatLanes q p T cmd) n 0 W) k =
      if k < lanesF T then repeatFrom (fun j => floatTransition q T (freeNaN cmd j k) p) n 0 (floatLaneAt W k)
      else floatLaneAt W k := by
  by_cases hL : k < lanesF T
  · rw [if_pos hL]
    exact repeatFrom_semiconj (floatLaneAt · k)
      (fun j W => by simp only [floatLaneAt_stepFloatLanes q p T cmd j W hk, if_pos hL]) n 0 W
  · rw [if_neg hL]
    exact repeatFrom_fixed (floatLaneAt · k)
      (fun j W => by simp only [floatLaneAt_stepFloatLanes q p T cmd j W hk, if_neg hL]) n 0 W

/-- The vectors past the dimensionality keep their values (R44). -/
theorem iterate_stepLanes_y {p : IntPrim} (hdim : ¬ 2 ≤ intDim p) (L n : Nat) (W : LaneFile) :
    ((stepLanes p L)^[n] W).y = W.y :=
  iterate_fixed_view Tri.y (fun _ => if_neg hdim) n W

theorem iterate_stepLanes_z {p : IntPrim} (hdim : ¬ 3 ≤ intDim p) (L n : Nat) (W : LaneFile) :
    ((stepLanes p L)^[n] W).z = W.z :=
  iterate_fixed_view Tri.z (fun _ => if_neg hdim) n W

theorem repeatFrom_stepFloatLanes_y {p : FloatPrim} (hdim : ¬ 2 ≤ floatDim p) (q : Params) (T : Tier) (cmd n : Nat)
    (W : LaneFile) : (repeatFrom (stepFloatLanes q p T cmd) n 0 W).y = W.y :=
  repeatFrom_fixed Tri.y (fun _ _ => if_neg hdim) n 0 W

theorem repeatFrom_stepFloatLanes_z {p : FloatPrim} (hdim : ¬ 3 ≤ floatDim p) (q : Params) (T : Tier) (cmd n : Nat)
    (W : LaneFile) : (repeatFrom (stepFloatLanes q p T cmd) n 0 W).z = W.z :=
  repeatFrom_fixed Tri.z (fun _ _ => if_neg hdim) n 0 W

/-! ### The STEP commands at a tier the part has (R141) -/

theorem withLaneFile_of_yz {W : LaneFile} {s : State} (hy : W.y = s.v1) (hz : W.z = s.v2) :
    withLaneFile W s = { s with v0 := W.x } := by
  rw [withLaneFile, hy, hz]

theorem withLaneFile_of_z {W : LaneFile} {s : State} (hz : W.z = s.v2) :
    withLaneFile W s = { s with v0 := W.x, v1 := W.y } := by
  rw [withLaneFile, hz]

theorem exec_stepIntOf_resolved {t : TierReq} {T : Tier} {s : State} (hT : resolve s.params t = some T) (p : IntPrim) :
    exec (stepIntOf t p) s =
      .next (completeAtTier T (withLaneFile ((stepLanes p (lanesU T))^[s.cnt.toNat] (laneFile s)) s)) := by
  rw [exec_stepIntOf, stepInt, hT]

theorem exec_stepFloatOf_resolved {t : TierReq} {T : Tier} {s : State} (hT : resolve s.params t = some T)
    (p : FloatPrim) :
    exec (stepFloatOf t p) s = .next (completeAtTier T
      { withLaneFile (repeatFrom (stepFloatLanes s.params p T s.freeIdx) s.cnt.toNat 0 (laneFile s)) s with
        freeIdx := s.freeIdx + 1 }) := by
  rw [exec_stepFloatOf, stepFloat, hT]

/-- STEP on an integer primitive whose transition is `f` on the first component alone. -/
theorem exec_stepIntOf_oneDimensional {t : TierReq} {T : Tier} {s : State} (hT : resolve s.params t = some T)
    (p : IntPrim) {f : Word → Word} (hdim : intDim p = 1) (hf : ∀ a, (intTransition p a).x = f a.x) :
    ∃ X, exec (stepIntOf t p) s =
        .next { s with v0 := X, tierUsed := some T, err := .ok, done := true, inProgress := none } ∧
      ∀ k < 16, word X k = if k < lanesU T then f^[s.cnt.toNat] (word s.v0 k) else word s.v0 k := by
  refine ⟨((stepLanes p (lanesU T))^[s.cnt.toNat] (laneFile s)).x, ?_, fun k hk => ?_⟩
  · rw [exec_stepIntOf_resolved hT, withLaneFile_of_yz (iterate_stepLanes_y (by omega) _ _ _)
      (iterate_stepLanes_z (by omega) _ _ _)]
    rfl
  · have hlane := congrArg Tri.x (laneAt_iterate_stepLanes p (lanesU T) s.cnt.toNat (laneFile s) hk)
    have hiter : Function.Semiconj Tri.x (intTransition p) f := hf
    rwa [apply_ite Tri.x, hiter.iterate_right] at hlane

/-- Settles O39: the three primitives differ only in the transition of the first component. -/
theorem stepOneDimensional : Obligations.StepOneDimensional := by
  intro t T s hT c hc
  simp only [List.mem_cons, List.not_mem_nil, or_false] at hc
  obtain rfl | rfl | rfl := hc
  · exact exec_stepIntOf_oneDimensional hT .itent rfl fun _ => rfl
  · exact exec_stepIntOf_oneDimensional hT .ilog rfl fun _ => rfl
  · exact exec_stepIntOf_oneDimensional hT .isine rfl fun _ => rfl

/-- IHENON neither reads nor writes the third component (R107). -/
theorem iterate_ihenon_dropZ (n : Nat) (a : Tri Word) :
    ihenon^[n] { a with z := 0 } = { ihenon^[n] a with z := 0 } := by
  have hdrop : Function.Semiconj (fun a : Tri Word => { a with z := 0 }) ihenon ihenon := fun _ => rfl
  exact (hdrop.iterate_right n a).symm

/-- Settles O40: the pairs are the triples with V2 dropped. -/
theorem stepTwoDimensional : Obligations.StepTwoDimensional := by
  intro t T s hT
  refine ⟨((stepLanes .ihenon (lanesU T))^[s.cnt.toNat] (laneFile s)).x,
    ((stepLanes .ihenon (lanesU T))^[s.cnt.toNat] (laneFile s)).y, ?_, fun k hk => ?_⟩
  · refine (exec_stepIntOf_resolved hT .ihenon).trans ?_
    rw [withLaneFile_of_z (iterate_stepLanes_z (by decide) _ _ _)]
    rfl
  · have hlane := laneAt_iterate_stepLanes .ihenon (lanesU T) s.cnt.toNat (laneFile s) hk
    have hdrop := iterate_ihenon_dropZ s.cnt.toNat (laneAt (laneFile s) k)
    by_cases hL : k < lanesU T
    · rw [if_pos hL] at hlane ⊢
      exact ⟨(congrArg Tri.x hlane).trans (congrArg Tri.x hdrop).symm,
        (congrArg Tri.y hlane).trans (congrArg Tri.y hdrop).symm⟩
    · rw [if_neg hL] at hlane ⊢
      exact ⟨congrArg Tri.x hlane, congrArg Tri.y hlane⟩

/-- STEP on any integer primitive, as the triples of the lane state file. -/
theorem exec_stepIntOf_triples {t : TierReq} {T : Tier} {s : State} (hT : resolve s.params t = some T) (p : IntPrim) :
    ∃ X Y Z, exec (stepIntOf t p) s =
        .next { s with v0 := X, v1 := Y, v2 := Z, tierUsed := some T, err := .ok, done := true, inProgress := none } ∧
      ∀ k < 16, (⟨word X k, word Y k, word Z k⟩ : Tri Word) =
        if k < lanesU T then (intTransition p)^[s.cnt.toNat] ⟨word s.v0 k, word s.v1 k, word s.v2 k⟩
        else ⟨word s.v0 k, word s.v1 k, word s.v2 k⟩ :=
  ⟨_, _, _, exec_stepIntOf_resolved hT p,
    fun _ hk => laneAt_iterate_stepLanes p (lanesU T) s.cnt.toNat (laneFile s) hk⟩

/-- Settles O41: both are read lane by lane in all three vectors. -/
theorem stepThreeDimensional : Obligations.StepThreeDimensional := by
  intro t T s hT c hc
  simp only [List.mem_cons, List.not_mem_nil, or_false] at hc
  obtain rfl | rfl := hc
  · exact exec_stepIntOf_triples hT .ilorenz
  · exact exec_stepIntOf_triples hT .ichen

/-- STEP on a float primitive whose transition is `f` on the first component alone. -/
theorem exec_stepFloatOf_oneDimensional {t : TierReq} {T : Tier} {s : State} (hT : resolve s.params t = some T)
    (p : FloatPrim) {f : (Nat → F64) → F64 → F64} (hdim : floatDim p = 1)
    (hf : ∀ nan a, (floatTransition s.params T nan p a).x = f nan a.x) :
    ∃ X, exec (stepFloatOf t p) s =
        .next { s with
          v0 := X
          tierUsed := some T
          err := .ok
          done := true
          inProgress := none
          freeIdx := s.freeIdx + 1 } ∧
      ∀ k < 8, floatLane X k =
        if k < lanesF T then repeatFrom (fun j => f (freeNaN s.freeIdx j k)) s.cnt.toNat 0 (floatLane s.v0 k)
        else floatLane s.v0 k := by
  refine ⟨(repeatFrom (stepFloatLanes s.params p T s.freeIdx) s.cnt.toNat 0 (laneFile s)).x, ?_, fun k hk => ?_⟩
  · rw [exec_stepFloatOf_resolved hT, withLaneFile_of_yz (repeatFrom_stepFloatLanes_y (by omega) _ _ _ _ _)
      (repeatFrom_stepFloatLanes_z (by omega) _ _ _ _ _)]
    rfl
  · have hlane := congrArg Tri.x
      (floatLaneAt_repeatFrom_stepFloatLanes s.params p T s.freeIdx s.cnt.toNat (laneFile s) hk)
    rwa [apply_ite Tri.x, repeatFrom_semiconj Tri.x fun j a => hf (freeNaN s.freeIdx j k) a] at hlane

/-- FSINE has one formula at the scalar tier and one at the wide tiers (R119). -/
theorem fsine_eq_ite (q : Params) (T : Tier) : fsine q T = if T = .scalar then fsineScalar q else fsineWide q := by
  cases T <;> rfl

/-- Settles O42: FSINE by `fsine_eq_ite`, the others by their definitions. -/
theorem stepFloatOneDimensional : Obligations.StepFloatOneDimensional := by
  intro t T s hT c hc
  simp only [List.mem_cons, List.not_mem_nil, or_false] at hc
  obtain rfl | rfl | rfl := hc
  · exact exec_stepFloatOf_oneDimensional hT .flog rfl fun _ _ => rfl
  · exact exec_stepFloatOf_oneDimensional hT .ftent rfl fun _ _ => rfl
  · rw [← fsine_eq_ite]
    exact exec_stepFloatOf_oneDimensional hT .fsine rfl fun _ _ => rfl

/-- FHENON neither reads nor writes the third component (R116). -/
theorem repeatFrom_fhenon_dropZ (q : Params) (nan : Nat → Nat → F64) (n j : Nat) (a : Tri F64) :
    repeatFrom (fun j => fhenon q (nan j)) n j { a with z := 0 } =
      { repeatFrom (fun j => fhenon q (nan j)) n j a with z := 0 } :=
  (repeatFrom_semiconj (fun a : Tri F64 => { a with z := 0 }) (F := fun j => fhenon q (nan j))
    (fun _ _ => rfl) n j a).symm

/-- STEP.FHENON: the pairs are the triples with V2 dropped. -/
theorem exec_stepFhenon {t : TierReq} {T : Tier} {s : State} (hT : resolve s.params t = some T) :
    ∃ X Y, exec (.stepFhenon t) s =
        .next { s with
          v0 := X
          v1 := Y
          tierUsed := some T
          err := .ok
          done := true
          inProgress := none
          freeIdx := s.freeIdx + 1 } ∧
      ∀ k < 8,
        let a : Tri F64 := ⟨floatLane s.v0 k, floatLane s.v1 k, 0⟩
        let r := if k < lanesF T then
            repeatFrom (fun j => fhenon s.params (freeNaN s.freeIdx j k)) s.cnt.toNat 0 a else a
        floatLane X k = r.x ∧ floatLane Y k = r.y := by
  refine ⟨(repeatFrom (stepFloatLanes s.params .fhenon T s.freeIdx) s.cnt.toNat 0 (laneFile s)).x,
    (repeatFrom (stepFloatLanes s.params .fhenon T s.freeIdx) s.cnt.toNat 0 (laneFile s)).y, ?_, fun k hk => ?_⟩
  · refine (exec_stepFloatOf_resolved hT .fhenon).trans ?_
    rw [withLaneFile_of_z (repeatFrom_stepFloatLanes_z (by decide) _ _ _ _ _)]
    rfl
  · have hlane := floatLaneAt_repeatFrom_stepFloatLanes s.params .fhenon T s.freeIdx s.cnt.toNat (laneFile s) hk
    have hdrop := repeatFrom_fhenon_dropZ s.params (freeNaN s.freeIdx · k) s.cnt.toNat 0 (floatLaneAt (laneFile s) k)
    by_cases hL : k < lanesF T
    · simp only [if_pos hL] at hlane ⊢
      exact ⟨(congrArg Tri.x hlane).trans (congrArg Tri.x hdrop).symm,
        (congrArg Tri.y hlane).trans (congrArg Tri.y hdrop).symm⟩
    · simp only [if_neg hL] at hlane ⊢
      exact ⟨congrArg Tri.x hlane, congrArg Tri.y hlane⟩

/-- STEP on any float primitive, as the triples of the lane state file. -/
theorem exec_stepFloatOf_triples {t : TierReq} {T : Tier} {s : State} (hT : resolve s.params t = some T)
    (p : FloatPrim) :
    ∃ X Y Z, exec (stepFloatOf t p) s =
        .next { s with
          v0 := X
          v1 := Y
          v2 := Z
          tierUsed := some T
          err := .ok
          done := true
          inProgress := none
          freeIdx := s.freeIdx + 1 } ∧
      ∀ k < 8,
        let a : Tri F64 := ⟨floatLane s.v0 k, floatLane s.v1 k, floatLane s.v2 k⟩
        (⟨floatLane X k, floatLane Y k, floatLane Z k⟩ : Tri F64) =
          if k < lanesF T then
            repeatFrom (fun j => floatTransition s.params T (freeNaN s.freeIdx j k) p) s.cnt.toNat 0 a
          else a :=
  ⟨_, _, _, exec_stepFloatOf_resolved hT p,
    fun _ hk => floatLaneAt_repeatFrom_stepFloatLanes s.params p T s.freeIdx s.cnt.toNat (laneFile s) hk⟩

/-- Settles O43: FHENON on the pairs, the other two on the triples. -/
theorem stepFloatManyDimensional : Obligations.StepFloatManyDimensional := by
  intro t T s hT
  refine ⟨exec_stepFhenon hT, fun c hc => ?_⟩
  simp only [List.mem_cons, List.not_mem_nil, or_false] at hc
  obtain rfl | rfl := hc
  · exact exec_stepFloatOf_triples hT .florenz
  · exact exec_stepFloatOf_triples hT .fchen

/-- STEP with CNT = n: of what a further STEP reads but CNT, only the lane state file changes, by n transitions. -/
theorem exec_stepIntOf_cnt {t : TierReq} {T : Tier} {s : State} (hT : resolve s.params t = some T) (p : IntPrim)
    {n : Nat} (hn : n < 2 ^ 32) :
    ∃ u, exec (stepIntOf t p) { s with cnt := BitVec.ofNat 32 n } = .next u ∧ u.params = s.params ∧
      laneFile u = (stepLanes p (lanesU T))^[n] (laneFile s) := by
  have hcnt : (BitVec.ofNat 32 n).toNat = n := by
    rw [BitVec.toNat_ofNat, Nat.mod_eq_of_lt hn]
  refine ⟨_, exec_stepIntOf_resolved (s := { s with cnt := BitVec.ofNat 32 n }) hT p, rfl, ?_⟩
  dsimp only
  rw [hcnt]
  rfl

/-- Settles O44: the iterates of the transition of the lane state file add. -/
theorem stepsCompose : Obligations.StepsCompose := by
  intro t T p s m n hT hlt
  obtain ⟨u, hu, huParams, huLanes⟩ := exec_stepIntOf_cnt hT p (n := m) (by omega)
  obtain ⟨v, hv, -, hvLanes⟩ := exec_stepIntOf_cnt (s := u) (huParams ▸ hT) p (n := n) (by omega)
  obtain ⟨w, hw, -, hwLanes⟩ := exec_stepIntOf_cnt hT p hlt
  have hlanes : laneFile v = laneFile w := by
    rw [hvLanes, huLanes, hwLanes, Nat.add_comm m n, Function.iterate_add_apply]
  exact ⟨u, v, w, hu, hv, hw, congrArg Tri.x hlanes, congrArg Tri.y hlanes, congrArg Tri.z hlanes⟩

/-! ### The commands without a tier -/

/-- The block index SPOS div 4096 as two words (44_stream R220, R234). -/
theorem blockIndex_words (q : DWord) :
    lo32 (q >>> 12) = BitVec.ofNat 32 (q.toNat / 4096) ∧ hi32 (q >>> 12) = BitVec.ofNat 32 (q.toNat / 2 ^ 44) := by
  have hq : (q >>> 12).toNat = q.toNat / 4096 := by
    rw [BitVec.toNat_ushiftRight, Nat.shiftRight_eq_div_pow]
  constructor <;> apply BitVec.eq_of_toNat_eq
  · rw [toNat_lo32, hq, BitVec.toNat_ofNat]
  · have := q.isLt
    rw [toNat_hi32, hq, BitVec.toNat_ofNat]
    omega

/-- Settles O36: the derived IV is taken at block SPOS div 4096. -/
theorem plainCommands : Obligations.PlainCommands := by
  intro s
  obtain ⟨hlo, hhi⟩ := blockIndex_words s.spos
  refine ⟨exec_nop s, exec_mix s, exec_sinval s, deriveIv s.iv (s.spos >>> 12), exec_ivder s, ?_, ?_, rfl, rfl⟩
  · rw [← hlo]; rfl
  · rw [← hhi]; rfl

end Sys2Proof.Machine
end

section
/-! The avalanche mixer (42_mixer): mix step by step with its inverse (R160, R161), and the KSGEN commands of
R164 .. R170. -/

namespace Sys2Proof.Machine

/-! ### The steps of mix and their inverses (R161) -/

/-- The xor-shift that mix applies by 16 and by 13 (R160). -/
def xorShift (n : Nat) (k : Word) : Word := k ^^^ (k >>> n)

theorem mix_eq_xorShift (k : Word) : mix k = xorShift 13 (xorShift 16 (k * 0x85EBCA6B) * 0xC2B2AE35) := rfl

theorem unmix_eq_xorShift (k : Word) :
    unmix k = xorShift 16 ((k ^^^ (k >>> 13) ^^^ (k >>> 26)) * 0x7ED1B41D) * 0xA5CB9243 := rfl

theorem toNat_xorShift (n : Nat) (k : Word) : (xorShift n k).toNat = k.toNat ^^^ (k.toNat / 2 ^ n) := by
  rw [xorShift, BitVec.toNat_xor, toNat_shiftRight_word]

theorem xorShift_xorShift (m n : Nat) (k : Word) :
    xorShift m (xorShift n k) = k ^^^ (k >>> n) ^^^ ((k >>> m) ^^^ (k >>> (n + m))) := by
  rw [xorShift, xorShift, BitVec.ushiftRight_xor_distrib, BitVec.shiftRight_add]

theorem xorShift_comm (m n : Nat) (k : Word) : xorShift m (xorShift n k) = xorShift n (xorShift m k) := by
  rw [xorShift_xorShift, xorShift_xorShift, Nat.add_comm]
  ac_rfl

/-- Of an xor-shift done twice the two middle terms cancel. -/
theorem xorShift_twice (n : Nat) (k : Word) : xorShift n (xorShift n k) = xorShift (n + n) k := by
  rw [xorShift_xorShift, BitVec.xor_assoc, ← BitVec.xor_assoc (k >>> n), BitVec.xor_self, BitVec.zero_xor, xorShift]

/-- An xor-shift by half the width or more is its own inverse. -/
theorem xorShift_self_inverse {n : Nat} (hn : 32 ≤ n + n) (k : Word) : xorShift n (xorShift n k) = k := by
  rw [xorShift_twice, xorShift, BitVec.ushiftRight_eq_zero hn, BitVec.xor_zero]

/-- The inverse that R161 gives for `xorShift 13` is that xor-shift followed by one by 26: the fourth term, a shift by
39, is past the width. -/
theorem unshift13_eq_xorShift (k : Word) : k ^^^ (k >>> 13) ^^^ (k >>> 26) = xorShift 26 (xorShift 13 k) := by
  rw [xorShift_xorShift, BitVec.ushiftRight_eq_zero (n := 13 + 26) (by norm_num), BitVec.xor_zero]

theorem unshift13_xorShift13 (k : Word) :
    xorShift 13 k ^^^ (xorShift 13 k >>> 13) ^^^ (xorShift 13 k >>> 26) = k := by
  rw [unshift13_eq_xorShift, xorShift_twice, xorShift_self_inverse (by norm_num)]

theorem xorShift13_unshift13 (k : Word) : xorShift 13 (k ^^^ (k >>> 13) ^^^ (k >>> 26)) = k := by
  rw [unshift13_eq_xorShift, xorShift_comm, xorShift_twice, xorShift_self_inverse (by norm_num)]

/-- The two odd constants of mix and their inverses modulo 2^32. -/
theorem mixConstants_inverse :
    (0x85EBCA6B : Word) * 0xA5CB9243 = 1 ∧ (0xC2B2AE35 : Word) * 0x7ED1B41D = 1 := by decide

theorem mul_mul_of_inverse {a b : Word} (h : a * b = 1) (k : Word) : k * a * b = k := by
  rw [mul_assoc, h, mul_one]

/-! ### mix as a whole (R160, R161) -/

theorem toNat_mix (k : Word) :
    let a := k.toNat * 0x85EBCA6B % 2 ^ 32
    let b := a ^^^ (a / 2 ^ 16)
    let c := b * 0xC2B2AE35 % 2 ^ 32
    (mix k).toNat = c ^^^ (c / 2 ^ 13) := by
  rw [mix_eq_xorShift, toNat_xorShift, BitVec.toNat_mul, toNat_xorShift, BitVec.toNat_mul]
  rfl

theorem unmix_mix (k : Word) : unmix (mix k) = k := by
  obtain ⟨hfirst, hsecond⟩ := mixConstants_inverse
  rw [unmix_eq_xorShift, mix_eq_xorShift, unshift13_xorShift13, mul_mul_of_inverse hsecond,
    xorShift_self_inverse (by norm_num), mul_mul_of_inverse hfirst]

theorem mix_unmix (k : Word) : mix (unmix k) = k := by
  obtain ⟨hfirst, hsecond⟩ := mixConstants_inverse
  rw [mix_eq_xorShift, unmix_eq_xorShift, mul_mul_of_inverse ((mul_comm _ _).trans hfirst),
    xorShift_self_inverse (by norm_num), mul_mul_of_inverse ((mul_comm _ _).trans hsecond), xorShift13_unshift13]

theorem mix_injective : Function.Injective mix := Function.LeftInverse.injective unmix_mix

theorem mix_eq_zero_iff (k : Word) : mix k = 0 ↔ k = 0 := by
  have hzero : mix 0 = 0 := by decide
  exact mix_injective.eq_iff' hzero

/-- Settles O35: the inverse undoes the four steps one by one, and the trace is evaluated. -/
theorem mixIsABijection : Obligations.MixIsABijection :=
  ⟨toNat_mix, by decide, by decide, by decide, by decide, by decide,
    fun k => ⟨unmix_mix k, mix_unmix k, mix_eq_zero_iff k⟩,
    ⟨mix_injective, Function.RightInverse.surjective mix_unmix⟩, mixConstants_inverse,
    fun k => ⟨xorShift_self_inverse (by norm_num) k, unshift13_xorShift13 k⟩⟩

/-! ### The KSGEN commands at a tier the part has (R164) -/

/-- KSGEN on an integer primitive whose combination of lane k is `f k`. -/
theorem exec_ksgenOf_resolved {t : TierReq} {T : Tier} {s : State} (hT : resolve s.params t = some T) (p : IntPrim)
    {f : Nat → Word} (hf : ∀ k, comb p (laneAt (laneFile s) k) = f k) :
    ∃ K, exec (ksgenOf t p) s =
        .next { s with ks := K, tierUsed := some T, err := .ok, done := true, inProgress := none } ∧
      ∀ k < 16, word K k = if k < lanesU T then mix (f k) else word s.ks k := by
  refine ⟨mergeLanes (lanesU T) (fun k => mix (f k)) s.ks, ?_, fun k hk => word_mergeLanes _ _ _ hk⟩
  rw [exec_ksgenOf, ksgen, hT]
  simp only [hf]
  rfl

/-- Settles O38: the six primitives differ only in how they combine the vectors of a lane (R120). -/
theorem ksgenWritesTheMixedLanes : Obligations.KsgenWritesTheMixedLanes := by
  intro t T s hT c hc
  simp only [List.mem_cons, List.not_mem_nil, or_false] at hc
  obtain rfl | rfl | rfl | rfl | rfl | rfl := hc
  · exact exec_ksgenOf_resolved hT .itent fun _ => rfl
  · exact exec_ksgenOf_resolved hT .ilog fun _ => rfl
  · exact exec_ksgenOf_resolved hT .isine fun _ => rfl
  · exact exec_ksgenOf_resolved hT .ihenon fun _ => rfl
  · exact exec_ksgenOf_resolved hT .ilorenz fun _ => rfl
  · exact exec_ksgenOf_resolved hT .ichen fun _ => rfl

end Sys2Proof.Machine
end

section
/-! Seed derivation (43_cipher R180 .. R186): the pre-seeds from the key and IV words, the warm-up round as it works in
place, and the case in which no seed is 0. -/

namespace Sys2Proof.Machine

/-! ### Bytes and words (R13) -/

theorem toNat_byteOf (w : Word) (j : Nat) : (byteOf w j).toNat = w.toNat / 2 ^ (8 * j) % 2 ^ 8 := by
  rw [byteOf, BitVec.extractLsb'_toNat, Nat.shiftRight_eq_div_pow]

theorem toNat_wordLE (b₀ b₁ b₂ b₃ : Byte) :
    (wordLE b₀ b₁ b₂ b₃).toNat = b₀.toNat + 2 ^ 8 * b₁.toNat + 2 ^ 16 * b₂.toNat + 2 ^ 24 * b₃.toNat := by
  rw [wordLE, toNat_append_eq, toNat_append_eq, toNat_append_eq]
  omega

/-- A word is its four bytes, least significant first. -/
theorem wordLE_byteOf (w : Word) : wordLE (byteOf w 0) (byteOf w 1) (byteOf w 2) (byteOf w 3) = w := by
  have hw := w.isLt
  apply BitVec.eq_of_toNat_eq
  rw [toNat_wordLE, toNat_byteOf, toNat_byteOf, toNat_byteOf, toNat_byteOf]
  omega

/-- The bytes of a word of four bytes given by their index. -/
theorem toNat_wordLE_byte (f : Nat → Byte) {b : Nat} (hb : b < 4) :
    (wordLE (f 0) (f 1) (f 2) (f 3)).toNat / 2 ^ (8 * b) % 2 ^ 8 = (f b).toNat := by
  have h₀ := (f 0).isLt
  have h₁ := (f 1).isLt
  have h₂ := (f 2).isLt
  have h₃ := (f 3).isLt
  rw [toNat_wordLE]
  interval_cases b <;> omega

/-! ### IV words (R181) -/

theorem ivWord_eq_wordLE (iv : Vector Word 4) (n i : Nat) :
    ivWord iv n i = wordLE (ivByte iv ((4 * i % n + 0) % n)) (ivByte iv ((4 * i % n + 1) % n))
      (ivByte iv ((4 * i % n + 2) % n)) (ivByte iv ((4 * i % n + 3) % n)) := rfl

/-- Byte b of an aligned word of the IV register. -/
theorem ivByte_four_mul_add (iv : Vector Word 4) (j : Nat) {b : Nat} (hb : b < 4) :
    ivByte iv (4 * j + b) = byteOf (word iv j) b := by
  rw [ivByte, show (4 * j + b) / 4 = j by omega, show (4 * j + b) % 4 = b by omega]

/-- For an IV of m whole words the slice is aligned: the IV word of lane i is IV register i mod m. -/
theorem ivWord_four_mul (iv : Vector Word 4) {m : Nat} (hm : 0 < m) (i : Nat) :
    ivWord iv (4 * m) i = word iv (i % m) := by
  have hlane : i % m < m := Nat.mod_lt i hm
  have hbyte {b : Nat} (hb : b < 4) : ivByte iv ((4 * i % (4 * m) + b) % (4 * m)) = byteOf (word iv (i % m)) b := by
    rw [Nat.mul_mod_mul_left, Nat.mod_eq_of_lt (by omega), ivByte_four_mul_add iv _ hb]
  rw [ivWord_eq_wordLE, hbyte (by decide), hbyte (by decide), hbyte (by decide), hbyte (by decide),
    wordLE_byteOf]

/-- The IV word reads the first n bytes of the IV only. -/
theorem ivWord_congr {iv iv' : Vector Word 4} {n : Nat} (hn : 0 < n) (h : ∀ j < n, ivByte iv j = ivByte iv' j)
    (i : Nat) : ivWord iv n i = ivWord iv' n i := by
  have hbyte (j : Nat) : ivByte iv (j % n) = ivByte iv' (j % n) := h _ (Nat.mod_lt j hn)
  rw [ivWord_eq_wordLE, ivWord_eq_wordLE, hbyte, hbyte, hbyte, hbyte]

/-! ### Pre-seeds (R182, R183) -/

/-- The zero replacement (R183). -/
def replaceZero (w : Word) : Word := if w = 0 then 0xDEADBEEF else w

theorem replaceZero_ne_zero (w : Word) : replaceZero w ≠ 0 := by
  unfold replaceZero
  split
  · decide
  · assumption

theorem preSeed_eq_replaceZero (key : Vector Word 8) (iv : Vector Word 4) (n i : Nat) :
    preSeed key iv n i =
      replaceZero (if 4 ≤ n then word key (i % 8) ^^^ ivWord iv n i else word key (i % 8)) := rfl

theorem preSeed_of_short {n : Nat} (hn : n < 4) (key : Vector Word 8) (iv : Vector Word 4) (i : Nat) :
    preSeed key iv n i = replaceZero (word key (i % 8)) := by
  rw [preSeed_eq_replaceZero, if_neg (by omega)]

theorem preSeed_of_long {n : Nat} (hn : 4 ≤ n) (key : Vector Word 8) (iv : Vector Word 4) (i : Nat) :
    preSeed key iv n i = replaceZero (word key (i % 8) ^^^ ivWord iv n i) := by
  rw [preSeed_eq_replaceZero, if_pos hn]

theorem preSeed_ne_zero (key : Vector Word 8) (iv : Vector Word 4) (n i : Nat) : preSeed key iv n i ≠ 0 := by
  rw [preSeed_eq_replaceZero]
  exact replaceZero_ne_zero _

theorem preSeed_congr {iv iv' : Vector Word 4} {n : Nat} (h : ∀ j < n, ivByte iv j = ivByte iv' j)
    (key : Vector Word 8) (i : Nat) : preSeed key iv n i = preSeed key iv' n i := by
  obtain hn | hn := Nat.lt_or_ge n 4
  · rw [preSeed_of_short hn, preSeed_of_short hn]
  · rw [preSeed_of_long hn, preSeed_of_long hn, ivWord_congr (by omega) h]

theorem preSeed_of_words (key : Vector Word 8) (iv : Vector Word 4) {m : Nat} (hm : 0 < m) (i : Nat) :
    preSeed key iv (4 * m) i = replaceZero (word key (i % 8) ^^^ word iv (i % m)) := by
  rw [preSeed_of_long (by omega), ivWord_four_mul iv hm]

/-- Settles O46: IVs of 16, 8 and 4 bytes are whole words, and the others are read byte by byte. -/
theorem preSeedsFollowKeyAndIv : Obligations.PreSeedsFollowKeyAndIv := by
  intro key iv i nonzero
  refine ⟨preSeed_of_words key iv (m := 4) (by decide) i, preSeed_of_words key iv (m := 2) (by decide) i, ?_,
    fun n hn => preSeed_of_short hn key iv i, fun n hn => preSeed_of_long hn key iv i, fun n hn b hb => ?_,
    fun j => toNat_byteOf _ _, by decide, fun n => preSeed_ne_zero key iv n i,
    fun n iv' h => preSeed_congr h key i⟩
  · rw [preSeed_of_words key iv (m := 1) (by decide) i, Nat.mod_one]
    rfl
  · rw [ivWord_eq_wordLE]
    exact toNat_wordLE_byte (fun b => ivByte iv ((4 * i % n + b) % n)) hb

/-! ### Lanes of a list -/

@[simp] theorem laneOf_set_self {S : List (Tri Word)} {i : Nat} (hi : i < S.length) (a : Tri Word) :
    laneOf (S.set i a) i = a := by
  simp [laneOf, hi]

@[simp] theorem laneOf_set_ne {S : List (Tri Word)} {i j : Nat} (hij : i ≠ j) (a : Tri Word) :
    laneOf (S.set i a) j = laneOf S j := by
  simp [laneOf, hij]

/-! ### The warm-up of one lane (R185) -/

/-- The neighbour that the warm-up of lane i finds: lane (i + 1) mod L, which is the lane itself, just stepped, when
there is but one. -/
theorem laneOf_warmLane_self (p : IntPrim) (L : Nat) {S : List (Tri Word)} {i : Nat} (hi : i < S.length) :
    laneOf (warmLane p L S i) i =
      xorNeighbour (intDim p) (intTransition p (laneOf S i))
        (if (i + 1) % L = i then intTransition p (laneOf S i) else laneOf S ((i + 1) % L)) := by
  rw [warmLane, laneOf_set_self (by simpa using hi), laneOf_set_self hi]
  split_ifs with hself
  · rw [hself, laneOf_set_self hi]
  · rw [laneOf_set_ne (Ne.symm hself)]

theorem laneOf_warmLane_ne (p : IntPrim) (L : Nat) (S : List (Tri Word)) {i j : Nat} (hij : i ≠ j) :
    laneOf (warmLane p L S i) j = laneOf S j := by
  rw [warmLane, laneOf_set_ne hij, laneOf_set_ne hij]

/-! ### A round, lane by lane (R185) -/

/-- The lanes after a round has worked on the first m of them. -/
def warmPrefix (p : IntPrim) (L : Nat) (S : List (Tri Word)) (m : Nat) : List (Tri Word) :=
  (List.range m).foldl (warmLane p L) S

theorem warmPrefix_zero (p : IntPrim) (L : Nat) (S : List (Tri Word)) : warmPrefix p L S 0 = S := rfl

theorem warmPrefix_succ (p : IntPrim) (L : Nat) (S : List (Tri Word)) (m : Nat) :
    warmPrefix p L S (m + 1) = warmLane p L (warmPrefix p L S m) m := by
  rw [warmPrefix, List.range_succ, List.foldl_append]
  rfl

theorem warmRound_eq_warmPrefix (p : IntPrim) (L : Nat) (S : List (Tri Word)) :
    warmRound p L S = warmPrefix p L S L := rfl

@[simp] theorem warmPrefix_length (p : IntPrim) (L : Nat) (S : List (Tri Word)) (m : Nat) :
    (warmPrefix p L S m).length = S.length := by
  induction m with
  | zero => rfl
  | succ m ih => rw [warmPrefix_succ, warmLane_length, ih]

/-- A lane that the round has not come to is as before the round. -/
theorem laneOf_warmPrefix_of_le (p : IntPrim) (L : Nat) (S : List (Tri Word)) {m i : Nat} (hi : m ≤ i) :
    laneOf (warmPrefix p L S m) i = laneOf S i := by
  induction m with
  | zero => rfl
  | succ m ih => rw [warmPrefix_succ, laneOf_warmLane_ne _ _ _ (by omega), ih (by omega)]

/-- A lane that the round has passed keeps what it was given. -/
theorem laneOf_warmPrefix_of_lt (p : IntPrim) (L : Nat) (S : List (Tri Word)) {m i : Nat} (hi : i < m) :
    laneOf (warmPrefix p L S m) i = laneOf (warmPrefix p L S (i + 1)) i := by
  induction m with
  | zero => omega
  | succ m ih =>
    obtain rfl | hlt := Nat.eq_or_lt_of_le (Nat.le_of_lt_succ hi)
    · rfl
    · rw [warmPrefix_succ, laneOf_warmLane_ne _ _ _ (by omega), ih hlt]

/-- The neighbour that a round over S finds at lane i (R185): lane i + 1 of before the round, but for the last lane lane 0
of this round, and for a lane alone itself as stepped. -/
def roundNeighbour (p : IntPrim) (S : List (Tri Word)) (i : Nat) : Tri Word :=
  if S.length = 1 then intTransition p (laneOf S 0)
  else if i + 1 < S.length then laneOf S (i + 1)
  else laneOf (warmRound p S.length S) 0

/-- One round, lane by lane. -/
theorem laneOf_warmRound (p : IntPrim) {S : List (Tri Word)} {i : Nat} (hi : i < S.length) :
    laneOf (warmRound p S.length S) i =
      xorNeighbour (intDim p) (intTransition p (laneOf S i)) (roundNeighbour p S i) := by
  rw [warmRound_eq_warmPrefix, laneOf_warmPrefix_of_lt _ _ _ hi, warmPrefix_succ,
    laneOf_warmLane_self _ _ (by simpa using hi), laneOf_warmPrefix_of_le _ _ _ le_rfl]
  congr 1
  unfold roundNeighbour
  by_cases hone : S.length = 1
  · obtain rfl : i = 0 := by omega
    rw [if_pos hone, hone, if_pos rfl]
  · rw [if_neg hone]
    by_cases hnext : i + 1 < S.length
    · rw [if_pos hnext, Nat.mod_eq_of_lt hnext, if_neg (by omega), laneOf_warmPrefix_of_le _ _ _ (by omega)]
    · have hlast : i + 1 = S.length := by omega
      rw [if_neg hnext, hlast, Nat.mod_self, if_neg (by omega), laneOf_warmPrefix_of_lt _ _ _ (by omega),
        warmRound_eq_warmPrefix, laneOf_warmPrefix_of_lt _ _ _ (by omega : 0 < S.length)]

theorem shiftRight_one_eq_ofNat (w : Word) : w >>> 1 = BitVec.ofNat 32 (w.toNat / 2) := by
  apply BitVec.eq_of_toNat_eq
  have hw := w.isLt
  rw [toNat_shiftRight_word, pow_one, BitVec.toNat_ofNat, Nat.mod_eq_of_lt (by omega)]

/-- Settles O47: `laneOf_warmRound`, component by component. -/
theorem warmUpIsInPlace : Obligations.WarmUpIsInPlace := by
  refine ⟨fun p T key iv n => rfl, fun p S i hi => ?_⟩
  intro stepped neighbour warm
  have hwarm : warm = xorNeighbour (intDim p) stepped neighbour := laneOf_warmRound p hi
  clear_value stepped neighbour warm
  subst hwarm
  rw [← shiftRight_one_eq_ofNat, ← shiftRight_one_eq_ofNat, ← shiftRight_one_eq_ofNat]
  refine ⟨rfl, ?_, ?_⟩
  · cases p <;> rfl
  · cases p <;> rfl

/-! ### ITENT at the scalar tier (R186) -/

/-- A word other than 0 differs from its half. -/
theorem xor_shiftRight_one_ne_zero {y : Word} (hy : y ≠ 0) : y ^^^ (y >>> 1) ≠ 0 := by
  intro h
  have hhalf : y.toNat = y.toNat / 2 ^ 1 := by
    rw [← toNat_shiftRight_word, ← BitVec.xor_eq_zero_iff.mp h]
  have hzero : y.toNat = 0 := by omega
  exact hy (BitVec.eq_of_toNat_eq hzero)

theorem itent_ne_zero (x : Word) : itent x ≠ 0 :=
  (tentArithmetic.2.1 x).2

/-- Settles O48: the last of the 16 rounds leaves y xor (y >> 1) with y a value of ITENT. -/
theorem scalarTentSeedIsNotZero : Obligations.ScalarTentSeedIsNotZero := by
  intro key iv n
  rw [deriveSeeds, Function.iterate_succ_apply']
  set S := (warmRound .itent (lanesU .scalar))^[15] _ with hS
  have hlength : S.length = 1 := by
    rw [hS, warmRounds_length]
    rfl
  have hround := laneOf_warmRound .itent (S := S) (i := 0) (by omega)
  rw [roundNeighbour, if_pos hlength, hlength] at hround
  change (laneOf (warmRound .itent 1 S) 0).x ≠ 0
  rw [hround]
  exact xor_shiftRight_one_ne_zero (itent_ne_zero (laneOf S 0).x)

end Sys2Proof.Machine
end

section
/-! The keystream byte by byte (43_cipher R187 .. R189): the bytes of one vector iteration, of the vector part and of the
tail. -/

namespace Sys2Proof.Machine

/-! ### Lanes after a number of transitions -/

theorem laneOf_map (f : Tri Word → Tri Word) {S : List (Tri Word)} {k : Nat} (hk : k < S.length) :
    laneOf (S.map f) k = f (laneOf S k) := by
  simp [laneOf, hk]

@[simp] theorem iterate_map_length (f : Tri Word → Tri Word) (n : Nat) (S : List (Tri Word)) :
    ((List.map f)^[n] S).length = S.length :=
  iterate_fixed_view List.length (fun _ => List.length_map f) n S

/-- Each lane is stepped by itself (R187). -/
theorem laneOf_iterate_map (f : Tri Word → Tri Word) (n : Nat) {S : List (Tri Word)} {k : Nat} (hk : k < S.length) :
    laneOf ((List.map f)^[n] S) k = f^[n] (laneOf S k) := by
  induction n with
  | zero => rfl
  | succ n ih => rw [Function.iterate_succ_apply', Function.iterate_succ_apply', laneOf_map f (by simpa using hk), ih]

/-! ### The bytes of one vector iteration and of the tail (R188, R189) -/

theorem laneBytes_cons (p : IntPrim) (a : Tri Word) (S : List (Tri Word)) :
    laneBytes p (a :: S) = wordBytes (mix (comb p a)) ++ laneBytes p S := rfl

theorem wordBytes_getD (w : Word) {b : Nat} (hb : b < 4) : (wordBytes w).getD b 0 = byteOf w b := by
  interval_cases b <;> rfl

/-- Byte 4k + b of a stride is byte b of lane k's mixed word (R188). -/
theorem laneBytes_getD (p : IntPrim) {S : List (Tri Word)} {i : Nat} (hi : i < 4 * S.length) :
    (laneBytes p S).getD i 0 = byteOf (mix (comb p (laneOf S (i / 4)))) (i % 4) := by
  induction S generalizing i with
  | nil => simp at hi
  | cons a S ih =>
    rw [laneBytes_cons]
    obtain hlt | hge := Nat.lt_or_ge i 4
    · rw [List.getD_append _ _ _ _ hlt, wordBytes_getD _ hlt, Nat.div_eq_of_lt hlt, Nat.mod_eq_of_lt hlt]
      rfl
    · rw [List.length_cons] at hi
      obtain ⟨j, rfl⟩ : ∃ j, i = j + 4 := ⟨i - 4, by omega⟩
      rw [List.getD_append_right _ _ _ _ hge]
      change (laneBytes p S).getD j 0 = _
      rw [ih (by omega), Nat.add_div_right j (by decide), Nat.add_mod_right]
      rfl

/-- Byte i of a tail is the low byte after i + 1 transitions of its one lane (R189). -/
theorem tailBytes_getD (p : IntPrim) {n i : Nat} (hi : i < n) (t : Tri Word) :
    (tailBytes p n t).getD i 0 = byteOf (mix (comb p ((intTransition p)^[i + 1] t))) 0 := by
  induction n generalizing i t with
  | zero => omega
  | succ n ih =>
    cases i with
    | zero => rfl
    | succ i => exact ih (by omega) (intTransition p t)

/-! ### The keystream from given lanes (R187) -/

/-- The vector iterations one after the other, and then the tail from lane 0 as it then stands. -/
theorem keystreamFrom_eq_append (p : IntPrim) (nvec m : Nat) (S : List (Tri Word)) :
    keystreamFrom p nvec m S =
      keystreamFrom p nvec 0 S ++ tailBytes p m (laneOf ((List.map (intTransition p))^[nvec] S) 0) := by
  induction nvec generalizing S with
  | zero => rfl
  | succ nvec ih => rw [keystreamFrom, keystreamFrom, ih, List.append_assoc, Function.iterate_succ_apply]

/-- Byte i of the vector iterations. -/
theorem keystreamFrom_vector_getD (p : IntPrim) {nvec i : Nat} {S : List (Tri Word)} (hi : i < nvec * (4 * S.length)) :
    (keystreamFrom p nvec 0 S).getD i 0 =
      byteOf (mix (comb p ((intTransition p)^[i / (4 * S.length) + 1] (laneOf S (i % (4 * S.length) / 4))))) (i % 4) := by
  induction nvec generalizing S i with
  | zero => omega
  | succ nvec ih =>
    set S' := S.map (intTransition p) with hS'
    have hlength : S'.length = S.length := List.length_map _
    have hpos : 0 < S.length := by
      by_contra h
      simp [show S.length = 0 by omega] at hi
    rw [keystreamFrom, ← hS']
    obtain hlt | hge := Nat.lt_or_ge i (4 * S.length)
    · rw [List.getD_append _ _ _ _ (by simpa [hlength] using hlt), laneBytes_getD p (by simpa [hlength] using hlt),
        Nat.div_eq_of_lt hlt, Nat.mod_eq_of_lt hlt, hS', laneOf_map _ (by omega)]
      rfl
    · obtain ⟨j, rfl⟩ : ∃ j, i = j + 4 * S.length := ⟨i - 4 * S.length, by omega⟩
      have hj : j < nvec * (4 * S.length) := by
        rw [Nat.add_one_mul nvec] at hi
        omega
      have hlane : j % (4 * S.length) / 4 < S.length := by
        have := Nat.mod_lt j (show 0 < 4 * S.length by omega)
        omega
      rw [List.getD_append_right _ _ _ _ (by simp [hlength]), laneBytes_length, hlength,
        Nat.add_sub_cancel, ih (by rwa [hlength]), hlength, hS', laneOf_map _ hlane,
        ← Function.iterate_succ_apply (intTransition p), Nat.add_div_right j (by omega), Nat.add_mod_right,
        Nat.add_mul_mod_self_left]

/-! ### The keystream (R187) -/

theorem four_lanesU (T : Tier) : 4 * lanesU T = stride T := rfl

theorem lanesU_pos (T : Tier) : 0 < lanesU T := by
  cases T <;> decide

/-- A byte of the vector iterations. -/
theorem keystream_vector_getD (p : IntPrim) (T : Tier) (key : Vector Word 8) (iv : Vector Word 4) (n : Nat) {N i : Nat}
    (hi : i < N / stride T * stride T) :
    (keystream p T key iv n N).getD i 0 =
      byteOf (mix (comb p ((intTransition p)^[i / stride T + 1]
        (laneOf (deriveSeeds p T key iv n) (i % stride T / 4))))) (i % 4) := by
  rw [keystream, keystreamFrom_eq_append, List.getD_append _ _ _ _ (by simpa [four_lanesU] using hi),
    keystreamFrom_vector_getD p (by simpa [four_lanesU] using hi), deriveSeeds_length, four_lanesU]

/-- A byte of the tail. -/
theorem keystream_tail_getD (p : IntPrim) (T : Tier) (key : Vector Word 8) (iv : Vector Word 4) (n : Nat) {N i : Nat}
    (hi : i < N) (htail : N / stride T * stride T ≤ i) :
    (keystream p T key iv n N).getD i 0 =
      byteOf (mix (comb p ((intTransition p)^[N / stride T + (i - N / stride T * stride T) + 1]
        (laneOf (deriveSeeds p T key iv n) 0)))) 0 := by
  have hlength : (keystreamFrom p (N / stride T) 0 (deriveSeeds p T key iv n)).length = N / stride T * stride T := by
    rw [keystreamFrom_length, deriveSeeds_length, four_lanesU, Nat.add_zero]
  have hrest : i - N / stride T * stride T < N % stride T := by
    have := Nat.div_add_mod' N (stride T)
    omega
  rw [keystream, keystreamFrom_eq_append, List.getD_append_right _ _ _ _ (by rwa [hlength]), hlength,
    tailBytes_getD p hrest, laneOf_iterate_map _ _ (by simpa using lanesU_pos T), ← Function.iterate_add_apply]
  rw [show i - N / stride T * stride T + 1 + N / stride T = N / stride T + (i - N / stride T * stride T) + 1 by omega]

/-- Settles O49: by `keystream_vector_getD` and `keystream_tail_getD`. -/
theorem keystreamByteFormula : Obligations.KeystreamByteFormula := by
  refine fun p T key iv n N => ⟨keystream_length p T key iv n N, fun i hi => ?_⟩
  split_ifs with hvector
  · exact keystream_vector_getD p T key iv n hvector
  · exact keystream_tail_getD p T key iv n hi (Nat.not_lt.mp hvector)

end Sys2Proof.Machine
end

section
/-! The commands DERIVE and PROCESS (43_cipher R193 .. R206): the seeds in the lane state file, the keystream XORed into
the buffer, and what the two say together with STEP and KSGEN. -/

namespace Sys2Proof.Machine

/-! ### DERIVE with its checks passed (R193) -/

theorem derive_ready {t : TierReq} {T : Tier} {s : State} (h : CipherReady t T s) (p : IntPrim) :
    derive p t s = completeAtTier T (withLaneFile
      (storeLanes (intDim p) (lanesU T) (laneOf (deriveSeeds p T s.key s.iv s.ivlen.toNat)) (laneFile s)) s) := by
  obtain ⟨hkey, hT, hiv⟩ := h
  rw [derive, if_neg (by omega), hT]
  exact if_neg (by omega)

theorem exec_deriveOf_ready {t : TierReq} {T : Tier} {s : State} (h : CipherReady t T s) (p : IntPrim) :
    exec (deriveOf t p) s = .next (completeAtTier T (withLaneFile
      (storeLanes (intDim p) (lanesU T) (laneOf (deriveSeeds p T s.key s.iv s.ivlen.toNat)) (laneFile s)) s)) := by
  rw [exec_deriveOf, derive_ready h]

/-- DERIVE on a one-dimensional primitive. -/
theorem exec_deriveOf_oneDimensional {t : TierReq} {T : Tier} {s : State} (h : CipherReady t T s) {p : IntPrim}
    (hdim : intDim p = 1) :
    ∃ X, exec (deriveOf t p) s =
        .next { s with v0 := X, tierUsed := some T, err := .ok, done := true, inProgress := none } ∧
      ∀ k < 16, word X k =
        if k < lanesU T then (laneOf (deriveSeeds p T s.key s.iv s.ivlen.toNat) k).x else word s.v0 k := by
  refine ⟨_, ?_, fun k hk => word_mergeLanes (lanesU T) _ s.v0 hk⟩
  rw [exec_deriveOf_ready h, withLaneFile_of_yz (if_neg (by omega)) (if_neg (by omega))]
  rfl

/-- DERIVE.IHENON writes the first two components of the seeds. -/
theorem exec_deriveIhenon {t : TierReq} {T : Tier} {s : State} (h : CipherReady t T s) :
    ∃ X Y, exec (.deriveIhenon t) s =
        .next { s with v0 := X, v1 := Y, tierUsed := some T, err := .ok, done := true, inProgress := none } ∧
      ∀ k < 16,
        let S := laneOf (deriveSeeds .ihenon T s.key s.iv s.ivlen.toNat) k
        word X k = (if k < lanesU T then S.x else word s.v0 k) ∧
        word Y k = (if k < lanesU T then S.y else word s.v1 k) := by
  refine ⟨_, _, ?_, fun k hk => ⟨word_mergeLanes (lanesU T) _ s.v0 hk, word_mergeLanes (lanesU T) _ s.v1 hk⟩⟩
  refine (exec_deriveOf_ready h .ihenon).trans ?_
  rw [withLaneFile_of_z rfl]
  rfl

/-- DERIVE on a three-dimensional primitive writes the seeds whole. -/
theorem exec_deriveOf_threeDimensional {t : TierReq} {T : Tier} {s : State} (h : CipherReady t T s) {p : IntPrim}
    (hdim : intDim p = 3) :
    ∃ X Y Z, exec (deriveOf t p) s =
        .next { s with v0 := X, v1 := Y, v2 := Z, tierUsed := some T, err := .ok, done := true, inProgress := none } ∧
      ∀ k < 16, (⟨word X k, word Y k, word Z k⟩ : Tri Word) =
        if k < lanesU T then laneOf (deriveSeeds p T s.key s.iv s.ivlen.toNat) k
        else ⟨word s.v0 k, word s.v1 k, word s.v2 k⟩ := by
  refine ⟨_, _, _, exec_deriveOf_ready h p, fun k hk => ?_⟩
  refine (laneAt_storeLanes (intDim p) (lanesU T) _ (laneFile s) hk).trans ?_
  rw [hdim]
  rfl

/-- Settles O45: the six primitives differ only in how many components of a seed they have. -/
theorem deriveWritesTheSeeds : Obligations.DeriveWritesTheSeeds := by
  intro t T s h
  refine ⟨fun c hc => ?_, exec_deriveIhenon h, fun c hc => ?_⟩
  · simp only [List.mem_cons, List.not_mem_nil, or_false] at hc
    obtain rfl | rfl | rfl := hc
    · exact exec_deriveOf_oneDimensional h (p := .itent) rfl
    · exact exec_deriveOf_oneDimensional h (p := .ilog) rfl
    · exact exec_deriveOf_oneDimensional h (p := .isine) rfl
  · simp only [List.mem_cons, List.not_mem_nil, or_false] at hc
    obtain rfl | rfl := hc
    · exact exec_deriveOf_threeDimensional h (p := .ilorenz) rfl
    · exact exec_deriveOf_threeDimensional h (p := .ichen) rfl

/-! ### PROCESS with its checks passed (R200) -/

theorem firstRejected_eq_none {p : Params} {n a : Nat} (h : ∀ k < n, memAdmits p (a + k) = true) :
    firstRejected p n a = none := by
  rcases firstRejected_cases p n a with ⟨hnone, -⟩ | ⟨j, hj, -, hrej, -⟩
  · exact hnone
  · cases hrej.symm.trans (h j hj)

/-- PROCESS that comes past its pre-check (R200). -/
theorem process_passed {p : IntPrim} {t : TierReq} {T : Tier} {s : State} (hkey : 32 ≤ s.keylen.toNat)
    (hT : resolve s.params t = some T) (hiv : s.ivlen.toNat ≤ 16) (hbuf : s.addr.toNat + s.len.toNat ≤ 2 ^ 32)
    (hnone : firstRejected s.params s.len.toNat s.addr.toNat = none) :
    process p t s = completeAtTier T
      { s with mem := xorBytes s.mem s.addr.toNat (keystream p T s.key s.iv s.ivlen.toNat s.len.toNat) } := by
  rcases process_cases p t s with ⟨h, -⟩ | ⟨-, h, -⟩ | ⟨U, a, -, -, -, -, ha, -⟩ | ⟨U, -, hU, -, -, -, h⟩
  · omega
  · simp only [hT, reduceCtorEq, false_or] at h; omega
  · cases ha.symm.trans hnone
  · rw [h, Option.some.inj (hU.symm.trans hT)]

theorem process_ready {t : TierReq} {T : Tier} {s : State} (h : CipherReady t T s) (hb : BufferReady s) (p : IntPrim) :
    process p t s = completeAtTier T
      { s with mem := xorBytes s.mem s.addr.toNat (keystream p T s.key s.iv s.ivlen.toNat s.len.toNat) } :=
  process_passed h.key h.tier h.iv hb.range (firstRejected_eq_none hb.admitted)

/-- What PROCESS leaves in memory (R200, R65): canonical, and each buffer byte XORed with its keystream byte. -/
theorem exec_processOf_ready {t : TierReq} {T : Tier} {s : State} (h : CipherReady t T s) (hb : BufferReady s)
    (hwf : Memory.wf s.mem = true) (p : IntPrim) :
    ∃ M, exec (processOf t p) s =
        .next { s with mem := M, tierUsed := some T, err := .ok, done := true, inProgress := none } ∧
      Memory.wf M = true ∧
      ∀ a, readByte M a =
        if s.addr.toNat ≤ a ∧ a < s.addr.toNat + s.len.toNat then
          readByte s.mem a ^^^
            (keystream p T s.key s.iv s.ivlen.toNat s.len.toNat).getD (a - s.addr.toNat) 0
        else readByte s.mem a := by
  have hlength := keystream_length p T s.key s.iv s.ivlen.toNat s.len.toNat
  have hfit : s.addr.toNat + (keystream p T s.key s.iv s.ivlen.toNat s.len.toNat).length ≤ 2 ^ 32 := by
    rw [hlength]
    exact hb.range
  refine ⟨_, ?_, wf_xorBytes hwf hfit, fun a => ?_⟩
  · rw [exec_processOf, process_ready h hb]
    rfl
  · rw [readByte_xorBytes hwf hfit, hlength]

/-- Settles O50: `exec_processOf_ready` at each of the six primitives. -/
theorem processXorsTheKeystream : Obligations.ProcessXorsTheKeystream := by
  intro t T s h hb hwf c hc
  simp only [List.mem_cons, List.not_mem_nil, or_false] at hc
  obtain rfl | rfl | rfl | rfl | rfl | rfl := hc
  · exact exec_processOf_ready h hb hwf .itent
  · exact exec_processOf_ready h hb hwf .ilog
  · exact exec_processOf_ready h hb hwf .isine
  · exact exec_processOf_ready h hb hwf .ihenon
  · exact exec_processOf_ready h hb hwf .ilorenz
  · exact exec_processOf_ready h hb hwf .ichen

/-- The checks of the key, the tier and the IV read three fields of the state. -/
theorem CipherReady.congr {t : TierReq} {T : Tier} {s u : State} (h : CipherReady t T s) (hkey : u.keylen = s.keylen)
    (hparams : u.params = s.params) (hiv : u.ivlen = s.ivlen) : CipherReady t T u :=
  ⟨hkey ▸ h.key, hparams ▸ h.tier, hiv ▸ h.iv⟩

/-- The checks of the buffer read three fields of the state. -/
theorem BufferReady.congr {s u : State} (h : BufferReady s) (haddr : u.addr = s.addr) (hlen : u.len = s.len)
    (hparams : u.params = s.params) : BufferReady u :=
  ⟨by rw [haddr, hlen]; exact h.range, by rw [haddr, hlen, hparams]; exact h.admitted⟩

/-- Settles O51: both runs XOR the same keystream, for PROCESS changes none of its operands but the buffer (R191). -/
theorem processIsAnInvolution : Obligations.ProcessIsAnInvolution := by
  intro t T p s h hb hwf
  obtain ⟨M, hexec, hMwf, hM⟩ := exec_processOf_ready h hb hwf p
  set u : State := { s with mem := M, tierUsed := some T, err := .ok, done := true, inProgress := none }
  set u' := issue (encode (processOf t p)) u
  have hready : CipherReady t T u' := h.congr rfl rfl rfl
  have hbuffer : BufferReady u' := hb.congr rfl rfl rfl
  obtain ⟨M', hexec', hMwf', hM'⟩ := exec_processOf_ready hready hbuffer hMwf p
  refine ⟨u, _, hexec, rfl, hexec', rfl, memory_ext hMwf' hwf fun a => ?_⟩
  have haddr : u'.addr = s.addr := rfl
  have hlen : u'.len = s.len := rfl
  have hkey : u'.key = s.key := rfl
  have hiv : u'.iv = s.iv := rfl
  have hivlen : u'.ivlen = s.ivlen := rfl
  have hmem : u'.mem = M := rfl
  rw [hM' a, haddr, hlen, hkey, hiv, hivlen, hmem, hM a]
  split_ifs
  · rw [BitVec.xor_assoc, BitVec.xor_self, BitVec.xor_zero]
  · rfl

/-! ### DERIVE, STEP and KSGEN in turn (R193) -/

/-- The first D components of `a`, the others of `b` (R44). -/
def firstComponents (D : Nat) (a b : Tri Word) : Tri Word :=
  ⟨a.x, if 2 ≤ D then a.y else b.y, if 3 ≤ D then a.z else b.z⟩

theorem firstComponents_one (a b : Tri Word) : firstComponents 1 a b = { b with x := a.x } := rfl
theorem firstComponents_two (a b : Tri Word) : firstComponents 2 a b = { a with z := b.z } := rfl
theorem firstComponents_three (a b : Tri Word) : firstComponents 3 a b = a := rfl

theorem laneAt_storeLanes_active (D : Nat) {L : Nat} (f : Nat → Tri Word) (W : LaneFile) {k : Nat} (hk : k < 16)
    (hL : k < L) : laneAt (storeLanes D L f W) k = firstComponents D (f k) (laneAt W k) :=
  (laneAt_storeLanes D L f W hk).trans (if_pos hL)

/-- A primitive combines only its first D components (R120). -/
theorem comb_firstComponents (p : IntPrim) (a b : Tri Word) : comb p (firstComponents (intDim p) a b) = comb p a := by
  cases p <;> rfl

/-- A transition works on the first D components and reads no others (R44). -/
theorem intTransition_firstComponents_left (p : IntPrim) (a b : Tri Word) :
    intTransition p (firstComponents (intDim p) a b) = firstComponents (intDim p) (intTransition p a) b := by
  cases p with
  | itent | ilog | isine => rw [intDim, firstComponents_one, firstComponents_one]; rfl
  | ihenon => rw [intDim, firstComponents_two, firstComponents_two]; rfl
  | ilorenz | ichen => rw [intDim, firstComponents_three, firstComponents_three]

/-- Byte b of word k of the first vector iteration, where the keystream has one. -/
theorem keystream_firstStride_getD (p : IntPrim) (T : Tier) (key : Vector Word 8) (iv : Vector Word 4) (n : Nat)
    {N k b : Nat} (hN : stride T ≤ N) (hk : k < lanesU T) (hb : b < 4) :
    (keystream p T key iv n N).getD (4 * k + b) 0 =
      byteOf (mix (comb p (intTransition p (laneOf (deriveSeeds p T key iv n) k)))) b := by
  have hstride : 4 * k + b < stride T := by
    rw [← four_lanesU]
    omega
  have hvector : stride T ≤ N / stride T * stride T :=
    Nat.le_mul_of_pos_left _ (Nat.div_pos hN (by omega))
  rw [keystream_vector_getD p T key iv n (by omega), Nat.div_eq_of_lt hstride, Nat.mod_eq_of_lt hstride,
    show (4 * k + b) / 4 = k by omega, show (4 * k + b) % 4 = b by omega, Nat.zero_add, Function.iterate_one]

theorem lanesU_le (T : Tier) : lanesU T ≤ 16 := by
  cases T <;> decide

/-- Settles O53: KS[k] is the mixed combination of seed k after one transition. -/
theorem deriveStepKsgenIsTheKeystream : Obligations.DeriveStepKsgenIsTheKeystream := by
  intro t T p s N h hN
  set S := deriveSeeds p T s.key s.iv s.ivlen.toNat
  set u := completeAtTier T (withLaneFile (storeLanes (intDim p) (lanesU T) (laneOf S) (laneFile s)) s)
  have hderive : exec (deriveOf t p) s = .next u := exec_deriveOf_ready h p
  have huTier : resolve u.params t = some T := h.tier
  obtain ⟨v, hstep, hvParams, hvLanes⟩ := exec_stepIntOf_cnt huTier p (n := 1) (by decide)
  obtain ⟨K, hksgen, hK⟩ := exec_ksgenOf_resolved (s := v) (hvParams ▸ huTier) p fun _ => rfl
  refine ⟨u, v, _, hderive, hstep, hksgen, fun k hk b hb => ?_⟩
  have hk16 : k < 16 := hk.trans_le (lanesU_le T)
  have hseed : laneAt (laneFile u) k = firstComponents (intDim p) (laneOf S k) (laneAt (laneFile s) k) :=
    laneAt_storeLanes_active (intDim p) (laneOf S) (laneFile s) hk16 hk
  have hword : word K k = mix (comb p (intTransition p (laneOf S k))) := by
    rw [hK k hk16, if_pos hk, hvLanes, Function.iterate_one, laneAt_stepLanes _ _ _ hk16, if_pos hk, hseed,
      intTransition_firstComponents_left, comb_firstComponents]
  exact (keystream_firstStride_getD p T s.key s.iv s.ivlen.toNat hN hk hb).trans (congrArg (byteOf · b) hword.symm)

end Sys2Proof.Machine
end

section
/-! What commands do not depend on (43_cipher R190, 10_state R46): no command depends on what data memory holds but in data
memory itself, where it XORs the same bytes in, and PROCESS and SAPPLY do not depend on the lane state file and KS. -/

namespace Sys2Proof.Machine

/-! ### The same bytes XORed into two memories (R65) -/

/-- From m to m' and from n to n' each byte changes by the same XOR. -/
def SameXor (m m' n n' : Memory) : Prop :=
  ∀ a, readByte m' a ^^^ readByte m a = readByte n' a ^^^ readByte n a

theorem SameXor.unchanged (m n : Memory) : SameXor m m n n := fun _ => by
  rw [BitVec.xor_self, BitVec.xor_self]

theorem SameXor.trans {m m' m'' n n' n'' : Memory} (h : SameXor m m' n n') (h' : SameXor m' m'' n' n'') :
    SameXor m m'' n n'' := fun a => by
  have hsplit (x y z : Byte) : x ^^^ z = (x ^^^ y) ^^^ (y ^^^ z) := by
    rw [BitVec.xor_assoc, ← BitVec.xor_assoc y, BitVec.xor_self, BitVec.zero_xor]
  rw [hsplit _ (readByte m' a), h' a, h a, ← hsplit]

theorem SameXor.xorBytes {m n : Memory} (hm : Memory.wf m = true) (hn : Memory.wf n = true) {a : Nat} {ks : List Byte}
    (ha : a + ks.length ≤ 2 ^ 32) : SameXor m (xorBytes m a ks) n (xorBytes n a ks) := fun b => by
  have hcancel (x k : Byte) : (x ^^^ k) ^^^ x = k := by
    rw [BitVec.xor_comm, ← BitVec.xor_assoc, BitVec.xor_self, BitVec.zero_xor]
  rw [readByte_xorBytes hm ha, readByte_xorBytes hn ha]
  split_ifs
  · rw [hcancel, hcancel]
  · rw [BitVec.xor_self, BitVec.xor_self]

/-! ### Data memory and the commands that do not touch it -/

/-- The command f does the same from another memory: but for memory the state it leaves is the same, and in memory it XORs
the same bytes (R190). -/
def IgnoresMemory (f : State → State) (s : State) : Prop :=
  ∀ m : Memory, ∃ m', f { s with mem := m } = { f s with mem := m' } ∧
    (Memory.wf s.mem = true → Memory.wf m = true → SameXor m m' s.mem (f s).mem)

/-- A command that hands memory on. -/
theorem IgnoresMemory.of_handsOn {f : State → State} {s : State} (hmem : (f s).mem = s.mem)
    (hf : ∀ m, f { s with mem := m } = { f s with mem := m }) : IgnoresMemory f s :=
  fun m => ⟨m, hf m, fun _ _ => by rw [hmem]; exact .unchanged m s.mem⟩

theorem ksgen_ignoresMemory (p : IntPrim) (t : TierReq) (s : State) : IgnoresMemory (ksgen p t) s := by
  refine .of_handsOn (by rw [ksgen_frame]) fun m => ?_
  unfold ksgen
  dsimp only
  split <;> rfl

theorem stepInt_ignoresMemory (p : IntPrim) (t : TierReq) (s : State) : IgnoresMemory (stepInt p t) s := by
  refine .of_handsOn (by rw [stepInt_frame]) fun m => ?_
  unfold stepInt
  dsimp only
  split <;> rfl

theorem stepFloat_ignoresMemory (p : FloatPrim) (t : TierReq) (s : State) : IgnoresMemory (stepFloat p t) s := by
  refine .of_handsOn (by rw [stepFloat_frame]) fun m => ?_
  unfold stepFloat
  dsimp only
  split <;> rfl

theorem derive_ignoresMemory (p : IntPrim) (t : TierReq) (s : State) : IgnoresMemory (derive p t) s := by
  refine .of_handsOn (by rw [derive_frame]) fun m => ?_
  unfold derive
  dsimp only
  split
  · rfl
  · split
    · rfl
    · split <;> rfl

/-! ### PROCESS and SAPPLY by the outcome of their checks (R200, R227) -/

theorem process_invalidKey {p : IntPrim} {t : TierReq} {s : State} (hkey : s.keylen.toNat < 32) :
    process p t s = raiseError .invalidKey s :=
  if_pos hkey

theorem sapply_invalidKey {p : IntPrim} {t : TierReq} {s : State} (hkey : s.keylen.toNat < 32) :
    sapply p t s = raiseError .invalidKey s :=
  if_pos hkey

/-- SAPPLY that comes past its pre-check (R227). -/
theorem sapply_passed {p : IntPrim} {t : TierReq} {T : Tier} {s : State} (hkey : 32 ≤ s.keylen.toNat)
    (hT : resolve s.params t = some T) (hiv : s.ivlen.toNat = 16) (hbuf : s.addr.toNat + s.len.toNat ≤ 2 ^ 32)
    (hpos : s.spos.toNat + s.len.toNat ≤ 2 ^ 64) (hnone : firstRejected s.params s.len.toNat s.addr.toNat = none) :
    sapply p t s = completeAtTier T
      { applyLoop p T s.len.toNat s.len.toNat s.addr.toNat s.spos.toNat s with
        spos := BitVec.ofNat 64 (s.spos.toNat + s.len.toNat) } := by
  rcases sapply_cases p t s with ⟨h, -⟩ | ⟨-, h, -⟩ | ⟨U, a, -, -, -, -, -, ha, -⟩ | ⟨U, -, hU, -, -, -, -, h⟩
  · omega
  · simp only [hT, reduceCtorEq, false_or] at h; omega
  · cases ha.symm.trans hnone
  · rw [h, Option.some.inj (hU.symm.trans hT)]

/-! ### PROCESS and SAPPLY from another memory (R190) -/

theorem process_ignoresMemory (p : IntPrim) (t : TierReq) (s : State) : IgnoresMemory (process p t) s := by
  intro m
  rcases process_cases p t s with ⟨hkey, h⟩ | ⟨hkey, hfail, h⟩ | ⟨T, a, hkey, hT, hiv, hbuf, hrej, h⟩ |
    ⟨T, hkey, hT, hiv, hbuf, hnone, h⟩ <;> rw [h]
  · exact ⟨m, process_invalidKey (s := { s with mem := m }) hkey, fun _ _ => .unchanged m s.mem⟩
  · exact ⟨m, process_invalidArgument (s := { s with mem := m }) hkey hfail, fun _ _ => .unchanged m s.mem⟩
  · exact ⟨m, process_accessFault (s := { s with mem := m }) hkey hT hiv hbuf hrej, fun _ _ => .unchanged m s.mem⟩
  · refine ⟨_, process_passed (s := { s with mem := m }) hkey hT hiv hbuf hnone, fun hs hm => ?_⟩
    exact .xorBytes hm hs (by rw [keystream_length]; exact hbuf)

theorem fetchBlock_withMem (b : DWord) (p : IntPrim) (T : Tier) (s : State) (m : Memory) :
    fetchBlock b p T { s with mem := m } = { fetchBlock b p T s with mem := m } := by
  rcases fetchBlock_cases b p T s with ⟨hhit, h⟩ | ⟨hmiss, h⟩ <;> rw [h]
  · exact if_pos hhit
  · exact if_neg (Bool.eq_false_iff.mp hmiss)

/-- The apply loop from another memory: the cache goes the same way, so the same bytes are XORed in. -/
theorem applyLoop_ignoresMemory (p : IntPrim) (T : Tier) {fuel left a pos : Nat} (s : State) (ha : a + left ≤ 2 ^ 32) :
    IgnoresMemory (applyLoop p T fuel left a pos) s := by
  induction fuel generalizing left a pos s with
  | zero => exact .of_handsOn rfl fun _ => rfl
  | succ fuel ih =>
    intro m
    unfold applyLoop
    split
    · exact ⟨m, rfl, fun _ _ => .unchanged m s.mem⟩
    · rw [fetchBlock_withMem]
      dsimp only
      set n := min left (blockSize - pos % blockSize)
      set s₁ := fetchBlock (BitVec.ofNat 64 (pos / blockSize)) p T s
      set ks := (s₁.blkbuf.drop (pos % blockSize)).take n
      have hks : a + ks.length ≤ 2 ^ 32 := by
        have hn : n ≤ left := min_le_left ..
        have hlen : ks.length ≤ n := List.length_take_le ..
        omega
      have hmem : s₁.mem = s.mem := fetchBlock_mem ..
      obtain ⟨m', hloop, hsame⟩ :=
        ih (left := left - n) (a := a + n) (pos := pos + n) { s₁ with mem := xorBytes s₁.mem a ks } (by omega)
          (xorBytes m a ks)
      refine ⟨m', hloop, fun hs hm => ?_⟩
      rw [← hmem] at hs ⊢
      exact (SameXor.xorBytes hm hs hks).trans (hsame (wf_xorBytes hs hks) (wf_xorBytes hm hks))

theorem sapply_ignoresMemory (p : IntPrim) (t : TierReq) (s : State) : IgnoresMemory (sapply p t) s := by
  intro m
  rcases sapply_cases p t s with ⟨hkey, h⟩ | ⟨hkey, hfail, h⟩ | ⟨T, a, hkey, hT, hiv, hbuf, hpos, hrej, h⟩ |
    ⟨T, hkey, hT, hiv, hbuf, hpos, hnone, h⟩ <;> rw [h]
  · exact ⟨m, sapply_invalidKey (s := { s with mem := m }) hkey, fun _ _ => .unchanged m s.mem⟩
  · exact ⟨m, sapply_invalidArgument (s := { s with mem := m }) hkey hfail, fun _ _ => .unchanged m s.mem⟩
  · exact ⟨m, sapply_accessFault (s := { s with mem := m }) hkey hT hiv hbuf hpos hrej, fun _ _ => .unchanged m s.mem⟩
  · obtain ⟨m', hloop, hsame⟩ :=
      applyLoop_ignoresMemory p T (fuel := s.len.toNat) (pos := s.spos.toNat) s hbuf m
    refine ⟨m', (sapply_passed (s := { s with mem := m }) hkey hT hiv hbuf hpos hnone).trans ?_, hsame⟩
    dsimp only
    rw [hloop]
    rfl

/-- A command with a meaning that ignores memory. -/
theorem IgnoresMemory.exec {i : Instr} {f : State → State} {s t : State} (hf : ∀ u, exec i u = .next (f u))
    (hi : IgnoresMemory f s) (ht : t = f s) (m : Memory) :
    ∃ m', Machine.exec i { s with mem := m } = .next { t with mem := m' } ∧
      (Memory.wf s.mem = true → Memory.wf m = true → SameXor m m' s.mem t.mem) := by
  subst ht
  obtain ⟨m', hm', hsame⟩ := hi m
  exact ⟨m', (hf _).trans (congrArg _ hm'), hsame⟩

/-- No command depends on what data memory holds (R190, R46). -/
theorem exec_ignoresMemory {i : Instr} {s t : State} (h : exec i s = .next t) (m : Memory) :
    ∃ m', exec i { s with mem := m } = .next { t with mem := m' } ∧
      (Memory.wf s.mem = true → Memory.wf m = true → SameXor m m' s.mem t.mem) := by
  rcases exec_cases h with ⟨rfl, ht⟩ | ⟨rfl, ht⟩ | ⟨rfl, ht⟩ | ⟨rfl, ht⟩ | ⟨r, p, rfl, ht⟩ | ⟨r, p, rfl, ht⟩ |
    ⟨r, p, rfl, ht⟩ | ⟨r, p, rfl, ht⟩ | ⟨r, p, rfl, ht⟩ | ⟨r, p, rfl, ht⟩
  · exact (IgnoresMemory.of_handsOn rfl fun _ => rfl).exec exec_nop ht m
  · exact (IgnoresMemory.of_handsOn rfl fun _ => rfl).exec exec_mix ht m
  · exact (IgnoresMemory.of_handsOn rfl fun _ => rfl).exec exec_ivder ht m
  · exact (IgnoresMemory.of_handsOn rfl fun _ => rfl).exec exec_sinval ht m
  · exact (ksgen_ignoresMemory p r s).exec (exec_ksgenOf r p) ht m
  · exact (stepInt_ignoresMemory p r s).exec (exec_stepIntOf r p) ht m
  · exact (stepFloat_ignoresMemory p r s).exec (exec_stepFloatOf r p) ht m
  · exact (derive_ignoresMemory p r s).exec (exec_deriveOf r p) ht m
  · exact (process_ignoresMemory p r s).exec (exec_processOf r p) ht m
  · exact (sapply_ignoresMemory p r s).exec (exec_sapplyOf r p) ht m

/-! ### PROCESS and SAPPLY from other lanes (R46) -/

/-- The state with the lane state file W and the keystream vector k. -/
def withLanes (W : LaneFile) (k : Vector Word 16) (s : State) : State :=
  { s with v0 := W.x, v1 := W.y, v2 := W.z, ks := k }

theorem process_withLanes (p : IntPrim) (t : TierReq) (W : LaneFile) (k : Vector Word 16) (s : State) :
    process p t (withLanes W k s) = withLanes W k (process p t s) := by
  rcases process_cases p t s with ⟨hkey, h⟩ | ⟨hkey, hfail, h⟩ | ⟨T, a, hkey, hT, hiv, hbuf, hrej, h⟩ |
    ⟨T, hkey, hT, hiv, hbuf, hnone, h⟩ <;> rw [h]
  · exact process_invalidKey (s := withLanes W k s) hkey
  · exact process_invalidArgument (s := withLanes W k s) hkey hfail
  · exact process_accessFault (s := withLanes W k s) hkey hT hiv hbuf hrej
  · exact process_passed (s := withLanes W k s) hkey hT hiv hbuf hnone

theorem fetchBlock_withLanes (b : DWord) (p : IntPrim) (T : Tier) (W : LaneFile) (k : Vector Word 16) (s : State) :
    fetchBlock b p T (withLanes W k s) = withLanes W k (fetchBlock b p T s) := by
  rcases fetchBlock_cases b p T s with ⟨hhit, h⟩ | ⟨hmiss, h⟩ <;> rw [h]
  · exact if_pos hhit
  · exact if_neg (Bool.eq_false_iff.mp hmiss)

theorem applyLoop_withLanes (p : IntPrim) (T : Tier) (fuel left a pos : Nat) (W : LaneFile) (k : Vector Word 16)
    (s : State) :
    applyLoop p T fuel left a pos (withLanes W k s) = withLanes W k (applyLoop p T fuel left a pos s) := by
  induction fuel generalizing left a pos s with
  | zero => rfl
  | succ fuel ih =>
    unfold applyLoop
    split
    · rfl
    · rw [fetchBlock_withLanes]
      exact ih _ _ _ { fetchBlock (BitVec.ofNat 64 (pos / blockSize)) p T s with mem := _ }

theorem sapply_withLanes (p : IntPrim) (t : TierReq) (W : LaneFile) (k : Vector Word 16) (s : State) :
    sapply p t (withLanes W k s) = withLanes W k (sapply p t s) := by
  rcases sapply_cases p t s with ⟨hkey, h⟩ | ⟨hkey, hfail, h⟩ | ⟨T, a, hkey, hT, hiv, hbuf, hpos, hrej, h⟩ |
    ⟨T, hkey, hT, hiv, hbuf, hpos, hnone, h⟩ <;> rw [h]
  · exact sapply_invalidKey (s := withLanes W k s) hkey
  · exact sapply_invalidArgument (s := withLanes W k s) hkey hfail
  · exact sapply_accessFault (s := withLanes W k s) hkey hT hiv hbuf hpos hrej
  · rw [sapply_passed (s := withLanes W k s) hkey hT hiv hbuf hpos hnone, applyLoop_withLanes]
    rfl

/-- Settles O52: `exec_ignoresMemory`, and `withLanes` passed through PROCESS and SAPPLY. -/
theorem keystreamIgnoresBufferAndLanes : Obligations.KeystreamIgnoresBufferAndLanes := by
  refine ⟨fun i s t m h => exec_ignoresMemory h m, fun q p s t x y z k i hi h => ?_⟩
  simp only [List.mem_cons, List.not_mem_nil, or_false] at hi
  rcases hi with rfl | rfl
  · rw [exec_processOf] at h ⊢
    cases h
    exact congrArg Host.Outcome.next (process_withLanes p q ⟨x, y, z⟩ k s)
  · rw [exec_sapplyOf] at h ⊢
    cases h
    exact congrArg Host.Outcome.next (sapply_withLanes p q ⟨x, y, z⟩ k s)

end Sys2Proof.Machine
end

section
/-! The counter-mode stream (44_stream): the derived IV (R221), the blocks that SAPPLY's apply loop fetches (R224, R225),
and SAPPLY with its checks passed (R227 .. R233, R237, R238). -/

namespace Sys2Proof.Machine

/-! ### The derived IV (R221) -/

theorem byteOf_xor (v w : Word) (r : Nat) : byteOf (v ^^^ w) r = byteOf v r ^^^ byteOf w r :=
  BitVec.extractLsb'_xor

theorem byteOf_lo32 (b : DWord) {r : Nat} (hr : r < 4) :
    byteOf (lo32 b) r = BitVec.ofNat 8 (b.toNat / 2 ^ (8 * r)) := by
  apply BitVec.eq_of_toNat_eq
  rw [toNat_byteOf, toNat_lo32, BitVec.toNat_ofNat]
  interval_cases r <;> omega

theorem byteOf_hi32 (b : DWord) (r : Nat) : byteOf (hi32 b) r = BitVec.ofNat 8 (b.toNat / 2 ^ (8 * (4 + r))) := by
  apply BitVec.eq_of_toNat_eq
  rw [toNat_byteOf, toNat_hi32, BitVec.toNat_ofNat, Nat.div_div_eq_div_mul, Nat.mul_add, Nat.pow_add]

theorem word_deriveIv (iv : Vector Word 4) (b : DWord) :
    word (deriveIv iv b) 0 = word iv 0 ^^^ lo32 b ∧ word (deriveIv iv b) 1 = word iv 1 ^^^ hi32 b ∧
      word (deriveIv iv b) 2 = word iv 2 ∧ word (deriveIv iv b) 3 = word iv 3 :=
  ⟨rfl, rfl, rfl, rfl⟩

/-- The derived IV by bytes: the block index lies over the first two words of the IV, four bytes in each. -/
theorem ivByte_deriveIv (iv : Vector Word 4) (b : DWord) {j : Nat} (hj : j < 16) :
    ivByte (deriveIv iv b) j =
      if j < 8 then ivByte iv j ^^^ BitVec.ofNat 8 (b.toNat / 2 ^ (8 * j)) else ivByte iv j := by
  obtain ⟨h₀, h₁, h₂, h₃⟩ := word_deriveIv iv b
  obtain ⟨i, r, hr, rfl⟩ : ∃ i r, r < 4 ∧ j = 4 * i + r := ⟨j / 4, j % 4, by omega, by omega⟩
  rw [ivByte_four_mul_add _ _ hr, ivByte_four_mul_add _ _ hr]
  obtain rfl | rfl | rfl | rfl : i = 0 ∨ i = 1 ∨ i = 2 ∨ i = 3 := by omega
  · rw [if_pos (by omega), h₀, byteOf_xor, byteOf_lo32 b hr, Nat.mul_zero, Nat.zero_add]
  · rw [if_pos (by omega), h₁, byteOf_xor, byteOf_hi32]
  · rw [if_neg (by omega), h₂]
  · rw [if_neg (by omega), h₃]

/-- Settles O37: `ivByte_deriveIv` by bytes, `word_deriveIv` by registers, and the two examples evaluated. -/
theorem derivedIvByBytes : Obligations.DerivedIvByBytes :=
  ⟨fun iv b _ hj => ivByte_deriveIv iv b hj, word_deriveIv, by decide, by decide⟩

/-! ### The blocks that the apply loop fetches (R224, R225) -/

theorem fetchBlock_div (b : DWord) (p : IntPrim) (T : Tier) (s : State) :
    (fetchBlock b p T s).div = if hit b p T s = true then s.div else deriveIv s.iv b := by
  rcases fetchBlock_cases b p T s with ⟨hhit, h⟩ | ⟨hmiss, h⟩ <;> rw [h]
  · rw [if_pos hhit]
  · rw [if_neg (Bool.eq_false_iff.mp hmiss), regenerate_div]

theorem fetchBlock_blkidx (b : DWord) (p : IntPrim) (T : Tier) (s : State) : (fetchBlock b p T s).blkidx = b := by
  obtain ⟨-, hidx, -⟩ := (hit_iff ..).mp (hit_fetchBlock b p T s s.mem)
  exact hidx

/-- The loop over a run inside one block fetches that block and XORs its bytes. -/
theorem applyLoop_oneBlock {p : IntPrim} {T : Tier} {fuel n a pos : Nat} {s : State} (hn : 0 < n) (hfuel : n ≤ fuel)
    (hfit : n ≤ blockSize - pos % blockSize) :
    applyLoop p T fuel n a pos s =
      let fetched := fetchBlock (BitVec.ofNat 64 (pos / blockSize)) p T s
      { fetched with mem := xorBytes fetched.mem a ((fetched.blkbuf.drop (pos % blockSize)).take n) } := by
  obtain ⟨f, rfl⟩ : ∃ f, fuel = f + 1 := ⟨fuel - 1, by omega⟩
  conv_lhs => unfold applyLoop
  rw [if_neg (by omega)]
  dsimp only
  rw [min_eq_left hfit, Nat.sub_self, applyLoop_nothing]

/-- The last iteration of the loop: what comes before the last block is a loop of its own (none, where one block holds
the whole run), and then the last block is fetched. -/
theorem applyLoop_lastBlock {p : IntPrim} {T : Tier} {n a pos : Nat} {s : State} (hn : 0 < n) :
    ∃ M, applyLoop p T n n a pos s =
      { fetchBlock (BitVec.ofNat 64 ((pos + n - 1) / blockSize)) p T
          (applyLoop p T n (n - ((pos + n - 1) % blockSize + 1)) a pos s) with mem := M } := by
  set m := n - ((pos + n - 1) % blockSize + 1) with hm
  have hsplit : m + (n - m) = n := by omega
  have hblock : (pos + m) / blockSize = (pos + n - 1) / blockSize := by unfold blockSize at *; omega
  have hfit : n - m ≤ blockSize - (pos + m) % blockSize := by unfold blockSize at *; omega
  have hadd := applyLoop_add (p := p) (T := T) (a := a) (pos := pos) (s := s) hsplit.le
  rw [hsplit, applyLoop_oneBlock (by omega) (by omega) hfit, hblock] at hadd
  exact ⟨_, hadd⟩

/-- The cache after the loop is at the last block, whether it was true before or not. -/
theorem applyLoop_blkidx {p : IntPrim} {T : Tier} {fuel n a pos : Nat} {s : State} (hn : 0 < n) (hfuel : n ≤ fuel) :
    (applyLoop p T fuel n a pos s).blkidx = BitVec.ofNat 64 ((pos + n - 1) / blockSize) := by
  obtain ⟨M, hlast⟩ := applyLoop_lastBlock (p := p) (T := T) (a := a) (pos := pos) (s := s) hn
  rw [applyLoop_fuel hfuel le_rfl, hlast]
  exact fetchBlock_blkidx ..

theorem applyLoop_iv (p : IntPrim) (T : Tier) (fuel n a pos : Nat) (s : State) :
    (applyLoop p T fuel n a pos s).iv = s.iv := by
  rw [applyLoop_frame]

/-- A cache at the block before misses: indices below 2^64 are told apart. -/
theorem hit_of_previous {q : Nat} {p : IntPrim} {T : Tier} {s : State} (hq : q + 1 < 2 ^ 64)
    (hidx : s.blkidx = BitVec.ofNat 64 q) : ¬ hit (BitVec.ofNat 64 (q + 1)) p T s = true := by
  intro hhit
  obtain ⟨-, hnext, -⟩ := (hit_iff ..).mp hhit
  have hnat := congrArg BitVec.toNat (hidx.symm.trans hnext)
  rw [BitVec.toNat_ofNat, BitVec.toNat_ofNat, Nat.mod_eq_of_lt (by omega), Nat.mod_eq_of_lt hq] at hnat
  omega

/-- DIV after the loop tells a run that the cache held from one that it did not (R224, R225): a block after the first is
never the one the cache holds, so it is regenerated. -/
theorem applyLoop_div {p : IntPrim} {T : Tier} {n a pos : Nat} {s : State} (hn : 0 < n) (hpos : pos + n ≤ 2 ^ 64) :
    (applyLoop p T n n a pos s).div =
      if pos / blockSize = (pos + n - 1) / blockSize ∧ hit (BitVec.ofNat 64 (pos / blockSize)) p T s = true then s.div
      else deriveIv s.iv (BitVec.ofNat 64 ((pos + n - 1) / blockSize)) := by
  obtain ⟨M, hlast⟩ := applyLoop_lastBlock (p := p) (T := T) (a := a) (pos := pos) (s := s) hn
  rw [hlast]
  dsimp only
  rw [fetchBlock_div]
  by_cases hone : pos / blockSize = (pos + n - 1) / blockSize
  · have hnone : n - ((pos + n - 1) % blockSize + 1) = 0 := by unfold blockSize at *; omega
    rw [hnone, applyLoop_nothing, hone]
    simp only [true_and]
  · set m := n - ((pos + n - 1) % blockSize + 1) with hm
    have hfront : 0 < m := by unfold blockSize at *; omega
    have hnext : (pos + n - 1) / blockSize = (pos + m - 1) / blockSize + 1 := by unfold blockSize at *; omega
    have hbound : (pos + m - 1) / blockSize + 1 < 2 ^ 64 := by unfold blockSize at *; omega
    have hmiss := hit_of_previous (p := p) (T := T) hbound
      (applyLoop_blkidx (p := p) (T := T) (a := a) (s := s) hfront (show m ≤ n by omega))
    rw [hnext] at hone ⊢
    rw [applyLoop_iv, if_neg hmiss, if_neg fun ⟨hsame, _⟩ => hone hsame]

/-! ### SAPPLY with its checks passed (R227) -/

theorem sapply_ready {t : TierReq} {T : Tier} {s : State} (h : StreamReady t T s) (p : IntPrim) :
    sapply p t s = completeAtTier T
      { applyLoop p T s.len.toNat s.len.toNat s.addr.toNat s.spos.toNat s with
        spos := BitVec.ofNat 64 (s.spos.toNat + s.len.toNat) } :=
  sapply_passed h.key h.tier h.iv h.buffer.range h.stream (firstRejected_eq_none h.buffer.admitted)

/-- Settles O55: `applyLoop_div` for the loop over the whole buffer. -/
theorem divTellsAHitFromAMiss : Obligations.DivTellsAHitFromAMiss := by
  intro t T p s u h hlen hu
  rw [exec_sapplyOf, sapply_ready h] at hu
  cases hu
  have hdiv := applyLoop_div (p := p) (T := T) (a := s.addr.toNat) (s := s) hlen h.stream
  simp only [hit_iff] at hdiv
  exact hdiv

/-- A true cache holds the block of its tag (R45). -/
theorem CacheTrue.blkbuf_eq {s : State} (h : CacheTrue s) {p : IntPrim} {T : Tier} (htag : s.blktag = blockTag p T) :
    s.blkbuf = block p T s.key s.iv s.blkidx := by
  obtain ⟨p', T', htag', -, hbuf⟩ := h
  obtain ⟨rfl, rfl⟩ := blockTag_inj (htag.symm.trans htag')
  exact hbuf

theorem ofNat_add_word (q : DWord) (n : Word) : BitVec.ofNat 64 (q.toNat + n.toNat) = q + n.setWidth 64 := by
  rw [BitVec.ofNat_add, BitVec.ofNat_toNat, BitVec.ofNat_toNat, BitVec.setWidth_eq]

/-- What SAPPLY leaves (R227, R237): the buffer XORed with the stream's bytes at its positions, SPOS past them, and the
cache at the last block they come from. -/
theorem exec_sapplyOf_ready {t : TierReq} {T : Tier} {s : State} (h : StreamReady t T s) (hi : Invariant s)
    (p : IntPrim) {code : Nat} (hcode : (blockTag p T).toNat = code) :
    ∃ M D B I G V, exec (sapplyOf t p) s =
        .next { s with
          mem := M
          div := D
          blkbuf := B
          blkidx := I
          blktag := G
          blkValid := V
          spos := s.spos + s.len.setWidth 64
          tierUsed := some T
          err := .ok
          done := true
          inProgress := none } ∧
      (∀ a, readByte M a =
        if s.addr.toNat ≤ a ∧ a < s.addr.toNat + s.len.toNat then
          readByte s.mem a ^^^ streamByte p T s.key s.iv (s.spos.toNat + (a - s.addr.toNat))
        else readByte s.mem a) ∧
      (if s.len = 0 then D = s.div ∧ B = s.blkbuf ∧ I = s.blkidx ∧ G = s.blktag ∧ V = s.blkValid
       else V = true ∧ G.toNat = code ∧ B = block p T s.key s.iv I ∧
        I = BitVec.ofNat 64 ((s.spos.toNat + s.len.toNat - 1) / 4096)) := by
  have hframe := applyLoop_frame p T s.len.toNat s.len.toNat s.addr.toNat s.spos.toNat s
  obtain ⟨-, htrue, hmem, hlast⟩ := applyLoop_spec (p := p) (pos := s.spos.toNat) le_rfl hi.memory hi.cache
    (implemented_of_resolve h.tier) h.buffer.range
  set L := applyLoop p T s.len.toNat s.len.toNat s.addr.toNat s.spos.toNat s with hL
  refine ⟨L.mem, L.div, L.blkbuf, L.blkidx, L.blktag, L.blkValid, ?_, hmem, ?_⟩
  · rw [exec_sapplyOf, sapply_ready h, ← hL, ofNat_add_word, hframe]
    rfl
  · split
    next hlen =>
      have hzero : s.len.toNat = 0 := by rw [hlen]; rfl
      rw [hL, hzero, applyLoop_nothing]
      exact ⟨rfl, rfl, rfl, rfl, rfl⟩
    next hlen =>
      obtain ⟨hvalid, htag, hidx⟩ := hlast (by bv_omega)
      have hkey : L.key = s.key := by rw [hframe]
      have hiv : L.iv = s.iv := by rw [hframe]
      have hbuf := (htrue hvalid).blkbuf_eq htag
      rw [hkey, hiv] at hbuf
      exact ⟨hvalid, by rw [htag, hcode], hbuf, hidx⟩

/-- BLKTAG as a number: PRIM in bits 3:0, TIER in bits 5:4 (10_state R37). -/
theorem toNat_blockTag (p : IntPrim) (T : Tier) :
    (blockTag p T).toNat = (primCode p).toNat + 16 * (match T with | .scalar => 1 | .w256 => 2 | .w512 => 3) := by
  rw [blockTag, toNat_append_eq, Nat.add_comm, Nat.mul_comm]
  cases T <;> rfl

/-- Settles O54: `exec_sapplyOf_ready` at each of the six primitives. -/
theorem sapplyIsPositionIndependent : Obligations.SapplyIsPositionIndependent := by
  intro t T s h hi c hc
  simp only [List.mem_cons, List.not_mem_nil, or_false] at hc
  obtain rfl | rfl | rfl | rfl | rfl | rfl := hc
  · exact exec_sapplyOf_ready h hi .itent (toNat_blockTag .itent T)
  · exact exec_sapplyOf_ready h hi .ilog (toNat_blockTag .ilog T)
  · exact exec_sapplyOf_ready h hi .isine (toNat_blockTag .isine T)
  · exact exec_sapplyOf_ready h hi .ihenon (toNat_blockTag .ihenon T)
  · exact exec_sapplyOf_ready h hi .ilorenz (toNat_blockTag .ilorenz T)
  · exact exec_sapplyOf_ready h hi .ichen (toNat_blockTag .ichen T)

/-! ### SAPPLY by its operands and its loop (R227) -/

/-- The state s with the operands and the STATUS of o, which the apply loop neither reads nor writes. -/
def withOperands (o s : State) : State :=
  { s with
    addr := o.addr
    len := o.len
    spos := o.spos
    tierUsed := o.tierUsed
    err := o.err
    done := o.done
    inProgress := o.inProgress }

theorem fetchBlock_withOperands (b : DWord) (p : IntPrim) (T : Tier) (o s : State) :
    fetchBlock b p T (withOperands o s) = withOperands o (fetchBlock b p T s) := by
  rcases fetchBlock_cases b p T s with ⟨hhit, h⟩ | ⟨hmiss, h⟩ <;> rw [h]
  · exact if_pos hhit
  · exact if_neg (Bool.eq_false_iff.mp hmiss)

theorem applyLoop_withOperands (p : IntPrim) (T : Tier) (fuel left a pos : Nat) (o s : State) :
    applyLoop p T fuel left a pos (withOperands o s) = withOperands o (applyLoop p T fuel left a pos s) := by
  induction fuel generalizing left a pos s with
  | zero => rfl
  | succ fuel ih =>
    unfold applyLoop
    split
    · rfl
    · rw [fetchBlock_withOperands]
      exact ih _ _ _ { fetchBlock (BitVec.ofNat 64 (pos / blockSize)) p T s with mem := _ }

/-- The operands and the STATUS that a SAPPLY at tier T leaves where it found those of o (R227). -/
def afterSapply (T : Tier) (o : State) : State :=
  completeAtTier T { o with spos := BitVec.ofNat 64 (o.spos.toNat + o.len.toNat) }

/-- SAPPLY by the part of the state that its loop works on and the part that it reads its operands from. -/
theorem exec_sapplyOf_withOperands {t : TierReq} {T : Tier} {o s : State} (h : StreamReady t T (withOperands o s))
    (p : IntPrim) :
    exec (sapplyOf t p) (withOperands o s) =
      .next (withOperands (afterSapply T o) (applyLoop p T o.len.toNat o.len.toNat o.addr.toNat o.spos.toNat s)) := by
  rw [exec_sapplyOf, sapply_ready h, applyLoop_withOperands]
  rfl

/-! ### SAPPLY in two pieces (R238) -/

theorem StreamReady.congr {t : TierReq} {T : Tier} {s u : State} (h : StreamReady t T s) (hkeylen : u.keylen = s.keylen)
    (hivlen : u.ivlen = s.ivlen) (hparams : u.params = s.params) (haddr : u.addr = s.addr) (hlen : u.len = s.len)
    (hspos : u.spos = s.spos) : StreamReady t T u :=
  ⟨hkeylen ▸ h.key, hparams ▸ h.tier, hivlen ▸ h.iv, h.buffer.congr haddr hlen hparams, by
    rw [hspos, hlen]; exact h.stream⟩

theorem toNat_pieces {w : Word} {m n : Nat} (h : w.toNat = m + n) :
    (BitVec.ofNat 32 m).toNat = m ∧ (BitVec.ofNat 32 n).toNat = n := by
  have hw := w.isLt
  rw [BitVec.toNat_ofNat, BitVec.toNat_ofNat, Nat.mod_eq_of_lt (by omega), Nat.mod_eq_of_lt (by omega)]
  exact ⟨rfl, rfl⟩

/-- The operands of the first piece, of m bytes. -/
def frontOperands (s : State) (m : Nat) : State := { s with len := BitVec.ofNat 32 m }

/-- The operands of the second piece, of n bytes at the following ADDR, after the first. -/
def backOperands (T : Tier) (s : State) (m n : Nat) : State :=
  { afterSapply T (frontOperands s m) with len := BitVec.ofNat 32 n, addr := s.addr + BitVec.ofNat 32 m }

section
variable {t : TierReq} {T : Tier} {s : State} {m n : Nat} (h : StreamReady t T s) (hlen : s.len.toNat = m + n)
include hlen

theorem backOperands_spos : (backOperands T s m n).spos = BitVec.ofNat 64 (s.spos.toNat + m) := by
  show BitVec.ofNat 64 (s.spos.toNat + (BitVec.ofNat 32 m).toNat) = _
  rw [(toNat_pieces hlen).1]

theorem afterSapply_spos : (afterSapply T s).spos = s.spos + BitVec.ofNat 64 (m + n) := by
  show BitVec.ofNat 64 (s.spos.toNat + s.len.toNat) = _
  rw [hlen, BitVec.ofNat_add, BitVec.ofNat_toNat, BitVec.setWidth_eq]

/-- SPOS after the second piece is where one SAPPLY leaves it. -/
theorem afterSapply_backOperands_spos :
    (afterSapply T (backOperands T s m n)).spos = s.spos + BitVec.ofNat 64 (m + n) := by
  show BitVec.ofNat 64 ((backOperands T s m n).spos.toNat + (BitVec.ofNat 32 n).toNat) = _
  rw [backOperands_spos hlen, (toNat_pieces hlen).2, BitVec.ofNat_add, BitVec.ofNat_toNat, BitVec.setWidth_eq,
    BitVec.ofNat_add, BitVec.ofNat_toNat, BitVec.setWidth_eq, BitVec.ofNat_add, BitVec.add_assoc]

include h

/-- ADDR and SPOS of the second piece, where a byte is left: they do not wrap. -/
theorem toNat_backOperands (hn : 0 < n) :
    (backOperands T s m n).addr.toNat = s.addr.toNat + m ∧ (backOperands T s m n).spos.toNat = s.spos.toNat + m := by
  have hrange := h.buffer.range
  have hstream := h.stream
  rw [backOperands_spos hlen]
  show (s.addr + BitVec.ofNat 32 m).toNat = _ ∧ _
  rw [BitVec.toNat_add, BitVec.toNat_ofNat, BitVec.toNat_ofNat, Nat.add_mod_mod, Nat.mod_eq_of_lt (by omega),
    Nat.mod_eq_of_lt (by omega)]
  exact ⟨rfl, rfl⟩

/-- The checks of the whole SAPPLY pass for its first piece. -/
theorem streamReady_frontOperands : StreamReady t T (frontOperands s m) := by
  have hm : (frontOperands s m).len.toNat = m := (toNat_pieces hlen).1
  have hrange := h.buffer.range
  have hstream := h.stream
  refine ⟨h.key, h.tier, h.iv, ⟨?_, fun k hk => h.buffer.admitted k ?_⟩, ?_⟩
  · show s.addr.toNat + _ ≤ _
    omega
  · omega
  · show s.spos.toNat + _ ≤ _
    omega

/-- The checks of the whole SAPPLY pass for its second piece; a register that wraps to 0 leaves no byte to go. -/
theorem streamReady_backOperands : StreamReady t T (backOperands T s m n) := by
  have hn : (backOperands T s m n).len.toNat = n := (toNat_pieces hlen).2
  have hrange := h.buffer.range
  have hstream := h.stream
  obtain rfl | hpos := Nat.eq_zero_or_pos n
  · exact ⟨h.key, h.tier, h.iv, ⟨by omega, fun k hk => by omega⟩, by omega⟩
  · obtain ⟨haddr, hspos⟩ := toNat_backOperands h hlen hpos
    refine ⟨h.key, h.tier, h.iv, ⟨by omega, fun k hk => ?_⟩, by omega⟩
    rw [haddr, Nat.add_assoc]
    exact h.buffer.admitted _ (by omega)

/-- The first piece. -/
theorem exec_frontOperands (p : IntPrim) :
    exec (sapplyOf t p) (frontOperands s m) =
      .next (withOperands (afterSapply T (frontOperands s m)) (applyLoop p T m m s.addr.toNat s.spos.toNat s)) := by
  have hexec := exec_sapplyOf_withOperands (o := frontOperands s m) (s := s) (streamReady_frontOperands h hlen) p
  rw [show (frontOperands s m).len.toNat = m from (toNat_pieces hlen).1] at hexec
  exact hexec

/-- The loop of the second piece, on what the first left, ends the loop over all m + n bytes. -/
theorem applyLoop_backOperands (p : IntPrim) :
    applyLoop p T n n (backOperands T s m n).addr.toNat (backOperands T s m n).spos.toNat
        (applyLoop p T m m s.addr.toNat s.spos.toNat s) =
      applyLoop p T (m + n) (m + n) s.addr.toNat s.spos.toNat s := by
  rw [applyLoop_add le_rfl, applyLoop_fuel (fuel := m + n) (left := m) (fuel' := m) (by omega) le_rfl]
  obtain rfl | hpos := Nat.eq_zero_or_pos n
  · rw [applyLoop_nothing, applyLoop_nothing]
  · obtain ⟨haddr, hspos⟩ := toNat_backOperands h hlen hpos
    rw [haddr, hspos]
    exact applyLoop_fuel le_rfl (by omega)

/-- The second piece, on the state that the first left. -/
theorem exec_backOperands (p : IntPrim) :
    exec (sapplyOf t p)
        (withOperands (backOperands T s m n) (applyLoop p T m m s.addr.toNat s.spos.toNat s)) =
      .next (withOperands (afterSapply T (backOperands T s m n))
        (applyLoop p T (m + n) (m + n) s.addr.toNat s.spos.toNat s)) := by
  have hready : StreamReady t T
      (withOperands (backOperands T s m n) (applyLoop p T m m s.addr.toNat s.spos.toNat s)) := by
    rw [applyLoop_frame]
    exact (streamReady_backOperands h hlen).congr rfl rfl rfl rfl rfl rfl
  rw [exec_sapplyOf_withOperands hready p, show (backOperands T s m n).len.toNat = n from (toNat_pieces hlen).2,
    applyLoop_backOperands h hlen p]

end

/-- Settles O56: the loops of the two pieces are the loop of the one SAPPLY, and so are SPOS and STATUS after them. -/
theorem sapplyIsAdditive : Obligations.SapplyIsAdditive := by
  intro t T p s m n hlen h _
  have hwhole := exec_sapplyOf_withOperands (o := s) (s := s) h p
  rw [hlen] at hwhole
  have hspos : (afterSapply T s).spos = (afterSapply T (backOperands T s m n)).spos :=
    (afterSapply_spos hlen).trans (afterSapply_backOperands_spos hlen).symm
  refine ⟨_, _, _, exec_frontOperands h hlen p, exec_backOperands h hlen p, hwhole, rfl, rfl, rfl,
    afterSapply_spos (T := T) hlen, ?_⟩
  exact congrArg (fun q => withOperands { afterSapply T s with spos := q }
    (applyLoop p T (m + n) (m + n) s.addr.toNat s.spos.toNat s)) hspos

end Sys2Proof.Machine
end

section
/-! Proofs of the statements about errors, completion and the interrupt (60_exceptions): every command completes, it
reports the first check that fails, an error changes nothing else, and IRQ follows DONE and IE. -/

namespace Sys2Proof.Machine

/-! ### The frame of every command (70_reset R291) -/

/-- All that a command can change: STATUS but IGN, the result registers, the block cache, data memory, and the index of
free values. DONE = 1 and BUSY = 0 after it (R255). -/
theorem exec_frame {i : Instr} {s t : State} (h : exec i s = .next t) :
    t = { s with
      err := t.err
      done := true
      inProgress := none
      tierUsed := t.tierUsed
      blkValid := t.blkValid
      dout := t.dout
      spos := t.spos
      blkidx := t.blkidx
      erraddr := t.erraddr
      blktag := t.blktag
      div := t.div
      v0 := t.v0
      v1 := t.v1
      v2 := t.v2
      ks := t.ks
      blkbuf := t.blkbuf
      mem := t.mem
      freeIdx := t.freeIdx } := by
  rcases exec_cases h with ⟨-, rfl⟩ | ⟨-, rfl⟩ | ⟨-, rfl⟩ | ⟨-, rfl⟩ | ⟨r, p, -, rfl⟩ | ⟨r, p, -, rfl⟩ |
    ⟨r, p, -, rfl⟩ | ⟨r, p, -, rfl⟩ | ⟨r, p, -, rfl⟩ | ⟨r, p, -, rfl⟩
  · rfl
  · rfl
  · rfl
  · rfl
  · rw [ksgen_frame]
  · rw [stepInt_frame]
  · rw [stepFloat_frame]
  · rw [derive_frame]
  · rw [process_frame]
  · rw [sapply_frame]

/-- A completion raises IRQ exactly when IE is set (R260). -/
theorem exec_irq {i : Instr} {s t : State} (h : exec i s = .next t) : irq t = s.ie := by
  rw [exec_frame h]
  exact Bool.true_and _

/-- Settles O7: the command goes on by `exec_total`, and each clause is a field of `exec_frame`. -/
theorem everyCommandCompletes : Obligations.EveryCommandCompletes := by
  intro i s
  obtain ⟨t, ht⟩ := exec_total i s
  refine ⟨t, ht, ?_⟩
  rw [exec_irq ht, exec_frame ht]
  exact ⟨rfl, rfl, rfl, rfl, rfl, rfl, rfl, rfl, rfl, rfl, rfl, rfl, rfl, rfl, rfl, rfl⟩

/-! ### Errors are precise (60_exceptions R256) -/

/-- A command that goes on completes with OK, or is a `raise` from the state before it (R250, R256). -/
theorem exec_ok_or_raises {i : Instr} {s t : State} (h : exec i s = .next t) :
    t.err = .ok ∨ (∃ e, t = raiseError e s) ∨ ∃ a, t = raiseAccessFault a s := by
  rcases exec_cases h with ⟨-, rfl⟩ | ⟨-, rfl⟩ | ⟨-, rfl⟩ | ⟨-, rfl⟩ | ⟨r, p, -, rfl⟩ | ⟨r, p, -, rfl⟩ |
    ⟨r, p, -, rfl⟩ | ⟨r, p, -, rfl⟩ | ⟨r, p, -, rfl⟩ | ⟨r, p, -, rfl⟩
  · exact .inl rfl
  · exact .inl rfl
  · exact .inl rfl
  · exact .inl rfl
  · rcases ksgen_cases p r s with ⟨-, e⟩ | ⟨T, -, e⟩
    · exact .inr (.inl ⟨_, e⟩)
    · exact .inl (by rw [e]; rfl)
  · rcases stepInt_cases p r s with ⟨-, e⟩ | ⟨T, -, e⟩
    · exact .inr (.inl ⟨_, e⟩)
    · exact .inl (by rw [e]; rfl)
  · rcases stepFloat_cases p r s with ⟨-, e⟩ | ⟨T, -, e⟩
    · exact .inr (.inl ⟨_, e⟩)
    · exact .inl (by rw [e]; rfl)
  · rcases derive_cases p r s with ⟨-, e⟩ | ⟨-, -, e⟩ | ⟨T, -, -, -, e⟩
    · exact .inr (.inl ⟨_, e⟩)
    · exact .inr (.inl ⟨_, e⟩)
    · exact .inl (by rw [e]; rfl)
  · rcases process_cases p r s with ⟨-, e⟩ | ⟨-, -, e⟩ | ⟨T, a, -, -, -, -, -, e⟩ | ⟨T, -, -, -, -, -, e⟩
    · exact .inr (.inl ⟨_, e⟩)
    · exact .inr (.inl ⟨_, e⟩)
    · exact .inr (.inr ⟨a, e⟩)
    · exact .inl (by rw [e]; rfl)
  · rcases sapply_cases p r s with ⟨-, e⟩ | ⟨-, -, e⟩ | ⟨T, a, -, -, -, -, -, -, e⟩ | ⟨T, -, -, -, -, -, -, e⟩
    · exact .inr (.inl ⟨_, e⟩)
    · exact .inr (.inl ⟨_, e⟩)
    · exact .inr (.inr ⟨a, e⟩)
    · exact .inl (by rw [e]; rfl)

/-- Settles O10: an outcome other than OK is one of the two raises, and a raise changes STATUS and, for ACCESS_FAULT,
ERRADDR. -/
theorem errorsArePrecise : Obligations.ErrorsArePrecise := by
  intro i s t h herr
  rcases exec_ok_or_raises h with hok | ⟨e, rfl⟩ | ⟨a, rfl⟩
  · exact absurd hok herr
  · have herraddr : (raiseError e s).erraddr = s.erraddr := rfl
    rw [herraddr, ite_self]
    rfl
  · have hfault : (raiseAccessFault a s).err = .accessFault := rfl
    rw [if_pos hfault]
    rfl

/-! ### The first check that fails (60_exceptions R250, R251) -/

/-- The error of the first of the checks `cs` that fails for command i, OK when none does. -/
def firstErrorAmong (i : Instr) (s : State) (cs : List Check) : ErrCode :=
  (cs.find? (checkFails i s)).elim .ok checkError

theorem firstError_eq (i : Instr) (s : State) : firstError i s = firstErrorAmong i s (commandChecks i) := by
  rw [firstError, firstErrorAmong]
  cases (commandChecks i).find? (checkFails i s) <;> rfl

@[simp] theorem firstErrorAmong_nil (i : Instr) (s : State) : firstErrorAmong i s [] = .ok := rfl

@[simp] theorem firstErrorAmong_cons (i : Instr) (s : State) (c : Check) (cs : List Check) :
    firstErrorAmong i s (c :: cs) = if checkFails i s c = true then checkError c else firstErrorAmong i s cs := by
  rw [firstErrorAmong, List.find?_cons]
  cases checkFails i s c <;> rfl

/-- The TIER codes that a part lacks are those that do not resolve (R101). -/
theorem tierMissing_toField_iff (q : Params) (t : TierReq) : tierMissing q t.toField = true ↔ resolve q t = none := by
  cases t with
  | auto => simp [tierMissing, TierReq.toField, resolve]
  | scalar => simp [tierMissing, TierReq.toField, resolve]
  | w256 => simp [tierMissing, TierReq.toField, resolve]
  | w512 => simp [tierMissing, TierReq.toField, resolve]

/-- The pre-check finds an address exactly when a byte of the buffer is rejected (R66). -/
theorem exists_rejected_iff (q : Params) (n a : Nat) :
    (∃ k < n, memAdmits q (a + k) = false) ↔ firstRejected q n a ≠ none := by
  rcases firstRejected_cases q n a with ⟨h, hall⟩ | ⟨j, hj, h, hrej, -⟩
  · refine iff_of_false (fun ⟨k, hk, hrej⟩ => ?_) (not_not.mpr h)
    cases hrej.symm.trans (hall k hk)
  · exact iff_of_true ⟨j, hj, hrej⟩ (by rw [h]; nofun)

/-- KSGEN and STEP check their tier alone. -/
theorem firstError_tierOnly {i : Instr} {t : TierReq} (hchecks : commandChecks i = [.tier])
    (htier : tierField (encode i) = t.toField) (s : State) :
    firstError i s = if resolve s.params t = none then .invalidArgument else .ok := by
  simp only [firstError_eq, hchecks, firstErrorAmong_cons, firstErrorAmong_nil, checkFails, checkError, htier,
    tierMissing_toField_iff]

theorem firstError_deriveOf (t : TierReq) (p : IntPrim) (s : State) :
    firstError (deriveOf t p) s =
      if s.keylen.toNat < 32 then .invalidKey
      else if resolve s.params t = none ∨ 16 < s.ivlen.toNat then .invalidArgument
      else .ok := by
  have hchecks : commandChecks (deriveOf t p) = [.keyLength, .tier, .ivAtMost16] := by
    rw [commandChecks, opField_deriveOf]; rfl
  simp only [firstError_eq, hchecks, firstErrorAmong_cons, firstErrorAmong_nil, checkFails, checkError,
    tierField_deriveOf, tierMissing_toField_iff, decide_eq_true_eq, ite_or]

theorem firstError_processOf (t : TierReq) (p : IntPrim) (s : State) :
    firstError (processOf t p) s =
      if s.keylen.toNat < 32 then .invalidKey
      else if resolve s.params t = none ∨ 16 < s.ivlen.toNat ∨ 2 ^ 32 < s.addr.toNat + s.len.toNat then .invalidArgument
      else if firstRejected s.params s.len.toNat s.addr.toNat ≠ none then .accessFault
      else .ok := by
  have hchecks : commandChecks (processOf t p) = [.keyLength, .tier, .ivAtMost16, .bufferRange, .admitted] := by
    rw [commandChecks, opField_processOf]; rfl
  simp only [firstError_eq, hchecks, firstErrorAmong_cons, firstErrorAmong_nil, checkFails, checkError,
    tierField_processOf, tierMissing_toField_iff, exists_rejected_iff, decide_eq_true_eq, ite_or]

theorem firstError_sapplyOf (t : TierReq) (p : IntPrim) (s : State) :
    firstError (sapplyOf t p) s =
      if s.keylen.toNat < 32 then .invalidKey
      else if resolve s.params t = none ∨ s.ivlen.toNat ≠ 16 ∨ 2 ^ 32 < s.addr.toNat + s.len.toNat ∨
          2 ^ 64 < s.spos.toNat + s.len.toNat then .invalidArgument
      else if firstRejected s.params s.len.toNat s.addr.toNat ≠ none then .accessFault
      else .ok := by
  have hchecks : commandChecks (sapplyOf t p) =
      [.keyLength, .tier, .ivIs16, .bufferRange, .streamRange, .admitted] := by
    rw [commandChecks, opField_sapplyOf]; rfl
  simp only [firstError_eq, hchecks, firstErrorAmong_cons, firstErrorAmong_nil, checkFails, checkError,
    tierField_sapplyOf, tierMissing_toField_iff, exists_rejected_iff, decide_eq_true_eq, ite_or]

/-! ### What each shared meaning reports -/

theorem ksgen_err (p : IntPrim) (t : TierReq) (s : State) : (ksgen p t s).err = firstError (ksgenOf t p) s := by
  rw [firstError_tierOnly (by rw [commandChecks, opField_ksgenOf]; rfl) (tierField_ksgenOf t p)]
  rcases ksgen_cases p t s with ⟨hT, e⟩ | ⟨T, hT, e⟩ <;> rw [e, hT] <;> rfl

theorem stepInt_err (p : IntPrim) (t : TierReq) (s : State) : (stepInt p t s).err = firstError (stepIntOf t p) s := by
  rw [firstError_tierOnly (by rw [commandChecks, opField_stepIntOf]; rfl) (tierField_stepIntOf t p)]
  rcases stepInt_cases p t s with ⟨hT, e⟩ | ⟨T, hT, e⟩ <;> rw [e, hT] <;> rfl

theorem stepFloat_err (p : FloatPrim) (t : TierReq) (s : State) :
    (stepFloat p t s).err = firstError (stepFloatOf t p) s := by
  rw [firstError_tierOnly (by rw [commandChecks, opField_stepFloatOf]; rfl) (tierField_stepFloatOf t p)]
  rcases stepFloat_cases p t s with ⟨hT, e⟩ | ⟨T, hT, e⟩ <;> rw [e, hT] <;> rfl

theorem derive_err (p : IntPrim) (t : TierReq) (s : State) : (derive p t s).err = firstError (deriveOf t p) s := by
  rw [firstError_deriveOf]
  rcases derive_cases p t s with ⟨hkey, e⟩ | ⟨hkey, hfail, e⟩ | ⟨T, hkey, hT, hiv, e⟩ <;> rw [e]
  · rw [if_pos hkey]; rfl
  · rw [if_neg (by omega), if_pos hfail]; rfl
  · rw [if_neg (by omega), if_neg (by simp only [hT, reduceCtorEq, false_or]; omega)]; rfl

theorem process_err (p : IntPrim) (t : TierReq) (s : State) : (process p t s).err = firstError (processOf t p) s := by
  rw [firstError_processOf]
  rcases process_cases p t s with ⟨hkey, e⟩ | ⟨hkey, hfail, e⟩ | ⟨T, a, hkey, hT, hiv, hbuf, hrej, e⟩ |
    ⟨T, hkey, hT, hiv, hbuf, hrej, e⟩ <;> rw [e]
  · rw [if_pos hkey]; rfl
  · rw [if_neg (by omega), if_pos hfail]; rfl
  · rw [if_neg (by omega), if_neg (by simp only [hT, reduceCtorEq, false_or]; omega), hrej]; rfl
  · rw [if_neg (by omega), if_neg (by simp only [hT, reduceCtorEq, false_or]; omega), hrej]; rfl

theorem sapply_err (p : IntPrim) (t : TierReq) (s : State) : (sapply p t s).err = firstError (sapplyOf t p) s := by
  rw [firstError_sapplyOf]
  rcases sapply_cases p t s with ⟨hkey, e⟩ | ⟨hkey, hfail, e⟩ | ⟨T, a, hkey, hT, hiv, hbuf, hpos, hrej, e⟩ |
    ⟨T, hkey, hT, hiv, hbuf, hpos, hrej, e⟩ <;> rw [e]
  · rw [if_pos hkey]; rfl
  · rw [if_neg (by omega), if_pos hfail]; rfl
  · rw [if_neg (by omega), if_neg (by simp only [hT, reduceCtorEq, false_or]; omega), hrej]; rfl
  · rw [if_neg (by omega), if_neg (by simp only [hT, reduceCtorEq, false_or]; omega), hrej]; rfl

/-- Settles O9: a plain command has no check, and each family reports its first check that fails. -/
theorem firstFailedCheckIsReported : Obligations.FirstFailedCheckIsReported := by
  intro i s
  obtain ⟨t, ht⟩ := exec_total i s
  refine ⟨t, ht, ?_⟩
  rcases exec_cases ht with ⟨rfl, rfl⟩ | ⟨rfl, rfl⟩ | ⟨rfl, rfl⟩ | ⟨rfl, rfl⟩ | ⟨r, p, rfl, rfl⟩ | ⟨r, p, rfl, rfl⟩ |
    ⟨r, p, rfl, rfl⟩ | ⟨r, p, rfl, rfl⟩ | ⟨r, p, rfl, rfl⟩ | ⟨r, p, rfl, rfl⟩
  · rfl
  · rfl
  · rfl
  · rfl
  · exact ksgen_err p r s
  · exact stepInt_err p r s
  · exact stepFloat_err p r s
  · exact derive_err p r s
  · exact process_err p r s
  · exact sapply_err p r s

/-! ### The interrupt output (60_exceptions R258, R260) -/

/-- CTRL takes a write at any time (R290). -/
theorem writeRegister_ctrl (v : Word) (s : State) : writeRegister .ctrl v s = { s with ie := v.getLsbD 0 } := by
  simp [writeRegister, writeReg]

/-- The acknowledge: a 1 written to STATUS.DONE lowers IRQ (R258). -/
theorem irq_writeStatus {v : Word} (hv : v.getLsbD 1 = true) (s : State) : irq (writeStatus v s) = false := by
  simp [irq, writeStatus, hv]

/-- Settles O20: the completion by `exec_irq`, the three writes by what each makes of DONE and IE. -/
theorem interruptFollowsDoneAndEnable : Obligations.InterruptFollowsDoneAndEnable := by
  intro s i c v
  obtain ⟨t, ht⟩ := exec_total i s
  refine ⟨rfl, ⟨t, ht, exec_irq ht⟩, ?_, ?_, fun hv => ?_, fun j hb hd => ?_, fun e hb hd => ?_⟩
  · rw [writeRegister_ctrl]; rfl
  · rw [writeRegister_ctrl]
  · rw [writeRegister_status, irq_writeStatus hv]
  · have hissue : writeRegister .cmd c s = issue c s := (writeRegister_idle hb .cmd c).trans (acceptCommand_legal s hd)
    rw [hissue]; rfl
  · have hdone : writeRegister .cmd c s = { s with inProgress := none, done := true, err := .illegalCmd } :=
      (writeRegister_idle hb .cmd c).trans (acceptCommand_illegal s hd)
    rw [hdone]
    exact Bool.true_and _

end Sys2Proof.Machine
end

section
/-! Proofs of the statements about reset and about the host's accesses while a command is in progress (70_reset): what
a write and a read do while BUSY = 1, what the block holds after reset, and what reset does to data memory. -/

namespace Sys2Proof.Machine

/-! ### Writes while BUSY = 1 (R290) -/

/-- One offset for each register that is not reserved (R20). -/
theorem regAt_eq_iff {off off' : BitVec 12} (ha : off.toNat % 4 = 0) (ha' : off'.toNat % 4 = 0)
    (hr : regAt off' ≠ .reserved) : regAt off = regAt off' ↔ off = off' :=
  ⟨fun h => regAt_inj ha' ha h hr, fun h => h ▸ rfl⟩

theorem regAt_eq_ctrl_iff {off : BitVec 12} (ha : off.toNat % 4 = 0) : regAt off = .ctrl ↔ off = 0x008 :=
  regAt_eq_iff (off' := 0x008) ha rfl nofun

/-- Settles O16: CTRL and STATUS take the write at any time, and every other register drops it. -/
theorem writesWhileBusyAreDropped : Obligations.WritesWhileBusyAreDropped := by
  intro s off v es hb ha
  rw [step_write ha]
  by_cases hctrl : off = 0x008
  · rw [if_pos hctrl, (regAt_eq_ctrl_iff ha).mpr hctrl, writeRegister_ctrl]
  · rw [if_neg hctrl]
    by_cases hstatus : off = 0x00C
    · rw [if_pos hstatus, (regAt_eq_status_iff ha).mpr hstatus, writeRegister_status]
      rfl
    · rw [if_neg hstatus, writeRegister_busy (by exact hb) (mt (regAt_eq_ctrl_iff ha).mp hctrl)
        (mt (regAt_eq_status_iff ha).mp hstatus)]

/-! ### Reads while BUSY = 1 (R291) -/

theorem readValue_busy_status {s : State} (hb : busy s = true) (free : Word) :
    readValue free .status s = statusWordBusy free s := by
  simp [readValue, hb]

theorem readValue_busy_result {s : State} (hb : busy s = true) {r : Reg} (hr : resultReg r = true) (free : Word) :
    readValue free r s = free &&& resultBits r := by
  have hstatus : r ≠ .status := fun h => by rw [h] at hr; cases hr
  simp [readValue, hb, hr, hstatus]

theorem readValue_busy_kept {s : State} (hb : busy s = true) {r : Reg} (hr : resultReg r = false) (hstatus : r ≠ .status)
    (free : Word) : readValue free r s = readReg r s := by
  simp [readValue, hb, hr, hstatus]

/-- Where the registers stand that a command can write (R20, R291): DOUT to BLKTAG, DIV, and the four vectors. -/
theorem resultReg_regAt_iff {off : BitVec 12} (ha : off.toNat % 4 = 0) :
    resultReg (regAt off) = true ↔
      (0x02C ≤ off.toNat ∧ off.toNat < 0x048) ∨ (0x090 ≤ off.toNat ∧ off.toNat < 0x0A0) ∨
        (0x100 ≤ off.toNat ∧ off.toNat < 0x200) := by
  constructor
  · intro h
    have hne : regAt off ≠ .reserved := fun hr => by rw [hr] at h; cases h
    have hoff := (standsAt_regAt ha).offset.resolve_left hne
    have hidx := (standsAt_regAt ha).index
    generalize regAt off = r at h hoff hidx
    cases r with
    | dout | sposLo | sposHi | blkidxLo | blkidxHi | erraddr | blktag =>
      simp only [regOffset] at hoff
      omega
    | div _ | v0 _ | v1 _ | v2 _ | ks _ =>
      simp only [regOffset, regIndexOk, decide_eq_true_eq] at hoff hidx
      omega
    | _ => cases h
  · rintro (⟨h1, h2⟩ | ⟨h1, h2⟩ | ⟨h1, h2⟩)
    · have table : ∀ k < 18, 11 ≤ k → resultReg (regAt (BitVec.ofNat 12 (4 * k))) = true := by decide
      have hk : off = BitVec.ofNat 12 (4 * (off.toNat / 4)) := by
        apply BitVec.eq_of_toNat_eq
        rw [BitVec.toNat_ofNat]
        omega
      rw [hk]
      exact table _ (by omega) (by omega)
    · rw [regAt_div h1 h2]
      rfl
    · rw [regAt_lanes h1, if_pos h2]
      split_ifs <;> rfl

theorem resultBits_of_ne_blktag {r : Reg} (h : r ≠ .blktag) : resultBits r = BitVec.allOnes 32 := by
  cases r with
  | blktag => exact absurd rfl h
  | _ => rfl

theorem regAt_eq_blktag_iff {off : BitVec 12} (ha : off.toNat % 4 = 0) : regAt off = .blktag ↔ off = 0x044 :=
  regAt_eq_iff (off' := 0x044) ha rfl nofun

/-- But for the bits of TIER_USED and BLK_VALID, which read any value, STATUS while BUSY = 1 is BUSY and IGN (R291). -/
theorem statusWordBusy_and_mask (free : Word) (s : State) :
    statusWordBusy free s &&& 0xFFFEFCFF = 1#32 ||| (if s.ign then 4 else 0) := by
  have fields : ∀ (blkValid : Bool) (tier : BitVec 2) (ign : Bool),
      packStatus blkValid tier 0 ign false true &&& 0xFFFEFCFF = 1#32 ||| (if ign then 4 else 0) := by decide
  exact fields ..

/-- Settles O17: STATUS by its mask, the result registers by the bits a command can write, the others as while idle. -/
theorem readsWhileBusy : Obligations.ReadsWhileBusy := by
  intro s off es hb ha
  refine ⟨readValue (Config.freeWord s.freeIdx) (regAt off) s, step_read ha s es, fun hoff => ?_, fun hoff => ?_,
    fun hoff => ?_, fun hoff => ?_⟩
  · rw [(regAt_eq_status_iff ha).mpr hoff, readValue_busy_status hb, statusWordBusy_and_mask]
  · rw [(regAt_eq_blktag_iff ha).mpr hoff, readValue_busy_result hb rfl, resultBits, BitVec.toNat_and]
    exact Nat.and_two_pow_sub_one_eq_mod _ 6
  · simp only [List.mem_cons, List.not_mem_nil, or_false] at hoff
    have hresult : resultReg (regAt off) = true := (resultReg_regAt_iff ha).mpr (by omega)
    have htag : regAt off ≠ .blktag := fun h => by
      rw [(regAt_eq_blktag_iff ha).mp h] at hoff
      revert hoff
      decide
    rw [readValue_busy_result hb hresult, resultBits_of_ne_blktag htag, BitVec.and_allOnes]
  · simp only [List.mem_cons, List.not_mem_nil, or_false] at hoff
    have hkept : resultReg (regAt off) = false :=
      Bool.eq_false_iff.mpr fun h => by have := (resultReg_regAt_iff ha).mp h; omega
    have hstatus : regAt off ≠ .status := fun h => by
      rw [(regAt_eq_status_iff ha).mp h] at hoff
      revert hoff
      decide
    exact readValue_busy_kept hb hkept hstatus _

/-! ### The block after reset (R280) -/

theorem step_reset (s : State) (es : List Event) :
    step { s with agenda := .reset :: es } = .next (assertReset { s with agenda := es }) := rfl

/-- The block is as `State.reset` has it; data memory, the parameters and the model's own fields are any (R282). -/
def BlockReset (t : State) : Prop :=
  t = { State.reset with
    mem := t.mem
    params := t.params
    agenda := t.agenda
    response := t.response
    freeIdx := t.freeIdx }

theorem blockReset_reset : BlockReset State.reset := rfl

theorem blockReset_assertReset (s : State) : BlockReset (assertReset s) := rfl

theorem word_replicate_zero {n k : Nat} : word (Vector.replicate n 0) k = 0 := by
  by_cases hk : k < n
  · rw [word_eq_getElem _ hk, Vector.getElem_replicate]
  · exact word_past_end _ (by omega)

theorem readReg_reset {r : Reg} (hid : r ≠ .id) (hcap : r ≠ .cap) : readReg r State.reset = 0 := by
  cases r with
  | id => exact absurd rfl hid
  | cap => exact absurd rfl hcap
  | key _ | iv _ | div _ | v0 _ | v1 _ | v2 _ | ks _ => exact word_replicate_zero
  | ctrl | status | sposHi | blkidxHi => decide
  | _ => rfl

/-- CAP alone shows the parameters of the part (R23); every other register is the block's. -/
theorem BlockReset.readReg_eq {t : State} (h : BlockReset t) {r : Reg} (hcap : r ≠ .cap) :
    readReg r t = readReg r State.reset := by
  rw [h]
  cases r with
  | cap => exact absurd rfl hcap
  | _ => rfl

theorem BlockReset.keylen_lt {t : State} (h : BlockReset t) : t.keylen.toNat < 32 := by
  have hkeylen : t.keylen = 0 := by rw [h]; rfl
  rw [hkeylen]
  decide

theorem regAt_eq_id_iff {off : BitVec 12} (ha : off.toNat % 4 = 0) : regAt off = .id ↔ off = 0x000 :=
  regAt_eq_iff (off' := 0x000) ha rfl nofun

theorem regAt_eq_cap_iff {off : BitVec 12} (ha : off.toNat % 4 = 0) : regAt off = .cap ↔ off = 0x004 :=
  regAt_eq_iff (off' := 0x004) ha rfl nofun

/-- Every offset of the window after reset (R280). -/
theorem BlockReset.readReg_regAt {t : State} (h : BlockReset t) {off : BitVec 12} (ha : off.toNat % 4 = 0) :
    (readReg (regAt off) t).toNat =
      if off = 0x000 then 0x43484537
      else if off = 0x004 then 1 + 2 * t.params.hasW256.toNat + 4 * t.params.hasW512.toNat
      else 0 := by
  by_cases hid : off = 0x000
  · rw [if_pos hid, (regAt_eq_id_iff ha).mpr hid]
    rfl
  · rw [if_neg hid]
    by_cases hcap : off = 0x004
    · rw [if_pos hcap, (regAt_eq_cap_iff ha).mpr hcap, readReg_cap_toNat]
    · have hcapReg : regAt off ≠ .cap := mt (regAt_eq_cap_iff ha).mp hcap
      rw [if_neg hcap, h.readReg_eq hcapReg, readReg_reset (mt (regAt_eq_id_iff ha).mp hid) hcapReg]
      rfl

theorem derive_invalidKey {p : IntPrim} {t : TierReq} {s : State} (hkey : s.keylen.toNat < 32) :
    derive p t s = raiseError .invalidKey s :=
  if_pos hkey

/-- KEYLEN below 32 fails every command that uses the key (R250, R280). -/
theorem exec_invalidKey {s : State} (hkey : s.keylen.toNat < 32) (q : TierReq) (p : IntPrim) :
    ∀ i ∈ [deriveOf q p, processOf q p, sapplyOf q p], exec i s = .next (raiseError .invalidKey s) := by
  intro i hi
  simp only [List.mem_cons, List.not_mem_nil, or_false] at hi
  obtain rfl | rfl | rfl := hi
  · rw [exec_deriveOf, derive_invalidKey hkey]
  · rw [exec_processOf, process_invalidKey hkey]
  · rw [exec_sapplyOf, sapply_invalidKey hkey]

/-- Settles O21: from reset and after the reset event the block is as `BlockReset` says. -/
theorem resetClearsEveryRegister : Obligations.ResetClearsEveryRegister := by
  refine ⟨fun s es => ⟨_, step_reset s es⟩, fun t ht => ?_⟩
  have hblock : BlockReset t := by
    obtain rfl | ⟨s, es, hstep⟩ := ht
    · exact blockReset_reset
    · cases hstep
      exact blockReset_assertReset _
  exact ⟨fun off ha => hblock.readReg_regAt ha, by rw [hblock]; rfl, by rw [hblock]; rfl, by rw [hblock]; rfl,
    exec_invalidKey hblock.keylen_lt⟩

/-! ### Data memory at reset (R281, R282) -/

/-- Reset frees the buffer in progress, cut off at the end of the address space, and no other byte. -/
theorem readByte_memAfterReset {s : State} (h : Memory.wf s.mem = true) {a : Nat} (ha : a < 2 ^ 32) :
    readByte (memAfterReset s) a = if inBusyBuffer a s then Config.freeByte s.freeIdx a else readByte s.mem a := by
  have haddr : s.addr.toNat < 2 ^ 32 := s.addr.isLt
  unfold memAfterReset inBusyBuffer
  cases s.inProgress with
  | none => rfl
  | some w =>
    cases hw : isBufferCommand w with
    | false => simp [hw]
    | true =>
      have hcut : (s.addr.toNat ≤ a ∧ a < s.addr.toNat + min s.len.toNat (2 ^ 32 - s.addr.toNat)) ↔
          s.addr.toNat ≤ a ∧ a < s.addr.toNat + s.len.toNat := by omega
      have hend : s.addr.toNat + min s.len.toNat (2 ^ 32 - s.addr.toNat) ≤ 2 ^ 32 := by omega
      simp only [hw, if_true, readByte_freeBytes h _ hend, hcut, Bool.true_and, Bool.and_eq_true, decide_eq_true_eq]

/-- Settles O22: the bytes by `readByte_memAfterReset`. -/
theorem resetKeepsDataMemory : Obligations.ResetKeepsDataMemory := by
  intro s t es hwf hstep
  cases hstep
  exact ⟨rfl, wf_memAfterReset (s := { s with agenda := es }) hwf,
    fun a ha => readByte_memAfterReset (s := { s with agenda := es }) hwf ha⟩

/-! ### The invariant at reset (R280, R45) -/

/-- Settles O57: memory and BLKBUF have their form, and the other clauses speak of a valid cache, a command in progress or
a tier used, none of which there is. -/
theorem invariantAtReset : Obligations.InvariantAtReset where
  memory := rfl
  buffer := reset_blkbuf_length
  cache := fun hv => by cases hv
  index := by rw [reset_blkidx]; decide
  issued := fun hb => by cases hb
  legal := fun _ hw => by cases hw
  named := by rw [reset_err]; decide
  tier := fun _ hu => by cases hu

end Sys2Proof.Machine
end
